-- ==== Sys2Proof/Word.lean ====
section
/-! DEFINITION. The widths of P224-CORE (00_scope.md R7): a byte lane, a 32-bit bus or command word, and a
512-bit integer, the content of a W register or of one point coordinate. Their arithmetic is `BitVec`'s, unsigned
and modulo 2^width, as R11 has it. -/

namespace Sys2Proof

/-- One byte lane of the bus (20_memory.md R54). -/
abbrev Byte := BitVec 8

/-- One 32-bit bus word, limb or command (20_memory.md R50, 30_encoding.md R80). -/
abbrev Word := BitVec 32

/-- A 512-bit unsigned value, `WIDTH` of 00_scope.md R7. -/
abbrev Value := BitVec 512

/-- A 16-bit byte address of the register window, an offset from `BASE` (20_memory.md R50, R51). -/
abbrev Addr := BitVec 16

end Sys2Proof
end

