-- ==== Sys2Proof/Syntax.lean ====
section
/-! DEFINITION. The 26 commands of P224-CORE, one constructor per row of spec/opcode_table.json (30_encoding.md R85),
and the two ways a command word fails to be one (R86, R87). Fields of kind `w`, `p` and `k` are indices that name an
existing register or slot by their type; LDC keeps its 12-bit immediate, whose limit is a check of WellFormed. -/

namespace Sys2Proof

/-- A field of kind `w` (30_encoding.md R83): names W[i], i in 0..15. -/
abbrev WReg := Fin 16

/-- A field of kind `p` (30_encoding.md R83): names PT[i], i in 0..7. -/
abbrev PReg := Fin 8

/-- A field of kind `k` (30_encoding.md R83): names key slot k, the pair (W[k], PT[k]), k in 0..7. -/
abbrev Slot := Fin 8

/-- The 12-bit immediate of the I-format (30_encoding.md R82, R84). -/
abbrev Imm12 := BitVec 12

/-- A command, its operands in field order D, A, then B or IMM12, without the fields of kind `-` (R85, R90). -/
inductive Instr where
  | add    (d a b : WReg)
  | sub    (d a b : WReg)
  | mul    (d a b : WReg)
  | div    (d a b : WReg)
  | rem    (d a b : WReg)
  | and    (d a b : WReg)
  | or     (d a b : WReg)
  | xor    (d a b : WReg)
  | shl    (d a b : WReg)
  | shr    (d a b : WReg)
  | shli   (d a : WReg) (imm : Imm12)
  | shri   (d a : WReg) (imm : Imm12)
  | cmp    (a b : WReg)
  | cvt64  (d a : WReg)
  | invmod (d a b : WReg)
  | ldc    (d : WReg) (idx : Imm12)
  | pldg   (d : PReg)
  | pneg   (d a : PReg)
  | padd   (d a b : PReg)
  | pdbl   (d a : PReg)
  | paff   (d a : PReg)
  | smul   (d a : PReg) (b : WReg)
  | kpub   (d : Slot) (a : WReg)
  | kdrv   (d a b : Slot)
  | pack   (d : WReg) (a : PReg)
  | unpack (d : Slot) (a : WReg)
  deriving DecidableEq, Repr

/-- Why a 32-bit word is no command (30_encoding.md R86, R87). -/
inductive DecodeError where
  /-- OP is not in the opcode map (R86). -/
  | illegalOpcode
  /-- A legal OP with a reserved bit set, a PT or slot index of 8 or more, or an LDC index of 5 or more (R87). -/
  | illegalOperand
  deriving DecidableEq, Repr

/-- Why a string of bytes is no command: its length is not one word (30_encoding.md R80), or its word is none. -/
inductive ByteDecodeError where
  | notOneWord
  | word (e : DecodeError)
  deriving DecidableEq, Repr

end Sys2Proof
end

