-- ==== Sys2Proof/WellFormed.lean ====
section
/-! DEFINITION. Which terms of `Instr` are commands. Register and slot indices are in range by their type
(30_encoding.md R83), and every shift amount 0..4095 is legal (R84), so the one check left is LDC's ROM index. -/

namespace Sys2Proof

/-- LDC's index is legal only in 0..4 (30_encoding.md R84, R87 item 5). -/
def romIndexOk (idx : Imm12) : Bool := idx.toNat < 5

/-- A command whose immediate is legal for it. -/
def Instr.wellFormed : Instr → Bool
  | .ldc _ idx => romIndexOk idx
  | .add _ _ _ | .sub _ _ _ | .mul _ _ _ | .div _ _ _ | .rem _ _ _ => true
  | .and _ _ _ | .or _ _ _ | .xor _ _ _ | .shl _ _ _ | .shr _ _ _ => true
  | .shli _ _ _ | .shri _ _ _ | .cmp _ _ | .cvt64 _ _ | .invmod _ _ _ => true
  | .pldg _ | .pneg _ _ | .padd _ _ _ | .pdbl _ _ | .paff _ _ | .smul _ _ _ => true
  | .kpub _ _ | .kdrv _ _ _ | .pack _ _ | .unpack _ _ => true

end Sys2Proof
end

