-- ==== Sys2Proof/Decode.lean ====
section
/-! DEFINITION. Decoding and encoding of command words (30_encoding.md). The decoder is total: every 32-bit word is
either one command or rejected by name (R88). It checks the opcode first and the operands second, and reads no
register (R89). -/

namespace Sys2Proof

/-! ## Fields of a command word (R81, R82) -/

/-- OP, bits 7:0. -/
def opField (c : Word) : Nat := (c.extractLsb' 0 8).toNat

/-- D, bits 11:8. -/
def dField (c : Word) : Fin 16 := ⟨(c.extractLsb' 8 4).toNat, (c.extractLsb' 8 4).isLt⟩

/-- A, bits 15:12. -/
def aField (c : Word) : Fin 16 := ⟨(c.extractLsb' 12 4).toNat, (c.extractLsb' 12 4).isLt⟩

/-- B, bits 19:16. -/
def bField (c : Word) : Fin 16 := ⟨(c.extractLsb' 16 4).toNat, (c.extractLsb' 16 4).isLt⟩

/-- IMM12, bits 31:20, which are reserved in the R-format. -/
def immField (c : Word) : Imm12 := c.extractLsb' 20 12

/-! ## Operand forms: one function per row shape of R85

Each has one test, the items of R87 that apply to its form, and fails with ILLEGAL_OPERAND when it does not hold. -/

/-- D, A, B of kind w. -/
def decodeWWW (mk : WReg → WReg → WReg → Instr) (c : Word) : Except DecodeError Instr :=
  if immField c = 0 then .ok (mk (dField c) (aField c) (bField c)) else .error .illegalOperand

/-- D, A of kind w and an immediate. -/
def decodeWWI (mk : WReg → WReg → Imm12 → Instr) (c : Word) : Except DecodeError Instr :=
  if bField c = 0 then .ok (mk (dField c) (aField c) (immField c)) else .error .illegalOperand

/-- D unused, A and B of kind w. -/
def decodeNWW (mk : WReg → WReg → Instr) (c : Word) : Except DecodeError Instr :=
  if immField c = 0 ∧ dField c = 0 then .ok (mk (aField c) (bField c)) else .error .illegalOperand

/-- D, A of kind w, B unused. -/
def decodeWWN (mk : WReg → WReg → Instr) (c : Word) : Except DecodeError Instr :=
  if immField c = 0 ∧ bField c = 0 then .ok (mk (dField c) (aField c)) else .error .illegalOperand

/-- D of kind w, A unused, and a ROM index. -/
def decodeWNI (mk : WReg → Imm12 → Instr) (c : Word) : Except DecodeError Instr :=
  if bField c = 0 ∧ aField c = 0 ∧ romIndexOk (immField c) then .ok (mk (dField c) (immField c))
  else .error .illegalOperand

/-- D of kind p, A and B unused. -/
def decodePNN (mk : PReg → Instr) (c : Word) : Except DecodeError Instr :=
  if h : (immField c = 0 ∧ aField c = 0 ∧ bField c = 0) ∧ (dField c).val < 8 then .ok (mk ⟨(dField c).val, h.2⟩)
  else .error .illegalOperand

/-- D, A of kind p, B unused. -/
def decodePPN (mk : PReg → PReg → Instr) (c : Word) : Except DecodeError Instr :=
  if h : (immField c = 0 ∧ bField c = 0) ∧ (dField c).val < 8 ∧ (aField c).val < 8 then
    .ok (mk ⟨(dField c).val, h.2.1⟩ ⟨(aField c).val, h.2.2⟩)
  else .error .illegalOperand

/-- D, A, B of kind p, or of kind k. -/
def decodePPP (mk : Fin 8 → Fin 8 → Fin 8 → Instr) (c : Word) : Except DecodeError Instr :=
  if h : immField c = 0 ∧ (dField c).val < 8 ∧ (aField c).val < 8 ∧ (bField c).val < 8 then
    .ok (mk ⟨(dField c).val, h.2.1⟩ ⟨(aField c).val, h.2.2.1⟩ ⟨(bField c).val, h.2.2.2⟩)
  else .error .illegalOperand

/-- D, A of kind p and B of kind w. -/
def decodePPW (mk : PReg → PReg → WReg → Instr) (c : Word) : Except DecodeError Instr :=
  if h : immField c = 0 ∧ (dField c).val < 8 ∧ (aField c).val < 8 then
    .ok (mk ⟨(dField c).val, h.2.1⟩ ⟨(aField c).val, h.2.2⟩ (bField c))
  else .error .illegalOperand

/-- D of kind k, A of kind w, B unused. -/
def decodeKWN (mk : Slot → WReg → Instr) (c : Word) : Except DecodeError Instr :=
  if h : (immField c = 0 ∧ bField c = 0) ∧ (dField c).val < 8 then .ok (mk ⟨(dField c).val, h.2⟩ (aField c))
  else .error .illegalOperand

/-- D of kind w, A of kind p, B unused. -/
def decodeWPN (mk : WReg → PReg → Instr) (c : Word) : Except DecodeError Instr :=
  if h : (immField c = 0 ∧ bField c = 0) ∧ (aField c).val < 8 then .ok (mk (dField c) ⟨(aField c).val, h.2⟩)
  else .error .illegalOperand

/-- The opcode map (R85). An OP that is not in it is illegal whatever the other bits are (R86, R89 step 1). -/
def decode (c : Word) : Except DecodeError Instr :=
  match opField c with
  | 0x01 => decodeWWW .add c
  | 0x02 => decodeWWW .sub c
  | 0x03 => decodeWWW .mul c
  | 0x04 => decodeWWW .div c
  | 0x05 => decodeWWW .rem c
  | 0x06 => decodeWWW .and c
  | 0x07 => decodeWWW .or c
  | 0x08 => decodeWWW .xor c
  | 0x09 => decodeWWW .shl c
  | 0x0A => decodeWWW .shr c
  | 0x0B => decodeWWI .shli c
  | 0x0C => decodeWWI .shri c
  | 0x0D => decodeNWW .cmp c
  | 0x0E => decodeWWN .cvt64 c
  | 0x0F => decodeWWW .invmod c
  | 0x10 => decodeWNI .ldc c
  | 0x11 => decodePNN .pldg c
  | 0x20 => decodePPN .pneg c
  | 0x21 => decodePPP .padd c
  | 0x22 => decodePPN .pdbl c
  | 0x23 => decodePPN .paff c
  | 0x30 => decodePPW .smul c
  | 0x40 => decodeKWN .kpub c
  | 0x41 => decodePPP .kdrv c
  | 0x42 => decodeWPN .pack c
  | 0x43 => decodeKWN .unpack c
  | _    => .error .illegalOpcode

/-! ## Bytes

A command word travels over the bus, whose byte lane k carries bits 8k+7 to 8k (20_memory.md R54). -/

/-- Byte lane k of a bus word. -/
def byteLane (v : Word) (k : Fin 4) : Byte := v.extractLsb' (8 * k.val) 8

/-- The four byte lanes of a word, lowest address first. -/
def wordBytes (v : Word) : List Byte := [byteLane v 0, byteLane v 1, byteLane v 2, byteLane v 3]

/-- The word whose byte lanes are these. -/
def wordOfBytes (b0 b1 b2 b3 : Byte) : Word := b3 ++ b2 ++ b1 ++ b0

/-- The decoder on any bytes: a command is exactly one word (R80). -/
def decodeBytes : List Byte → Except ByteDecodeError Instr
  | [b0, b1, b2, b3] =>
    match decode (wordOfBytes b0 b1 b2 b3) with
    | .ok i => .ok i
    | .error e => .error (.word e)
  | _ => .error .notOneWord

/-- The host's numbering of a table row's bits as one number, laid out as the bus carries it and decoded. Bits from
`nbits` on are 0. -/
def decodeTableWord (nbits w : Nat) : Option Instr :=
  match decodeBytes (wordBytes (BitVec.ofNat 32 (w % 2 ^ nbits))) with
  | .ok i => some i
  | .error _ => none

/-! ## Encoding -/

/-- R-format: `OP | D<<8 | A<<12 | B<<16` (R81, R85). The fields do not overlap, so their sum is their OR. -/
def rWord (op d a b : Nat) : Word := BitVec.ofNat 32 (op + d * 2 ^ 8 + a * 2 ^ 12 + b * 2 ^ 16)

/-- I-format: `OP | D<<8 | A<<12 | IMM12<<20` (R82, R85). -/
def iWord (op d a : Nat) (imm : Imm12) : Word := BitVec.ofNat 32 (op + d * 2 ^ 8 + a * 2 ^ 12 + imm.toNat * 2 ^ 20)

/-- OP of each command (R85). -/
def Instr.opcode : Instr → Nat
  | .add _ _ _ => 0x01
  | .sub _ _ _ => 0x02
  | .mul _ _ _ => 0x03
  | .div _ _ _ => 0x04
  | .rem _ _ _ => 0x05
  | .and _ _ _ => 0x06
  | .or _ _ _ => 0x07
  | .xor _ _ _ => 0x08
  | .shl _ _ _ => 0x09
  | .shr _ _ _ => 0x0A
  | .shli _ _ _ => 0x0B
  | .shri _ _ _ => 0x0C
  | .cmp _ _ => 0x0D
  | .cvt64 _ _ => 0x0E
  | .invmod _ _ _ => 0x0F
  | .ldc _ _ => 0x10
  | .pldg _ => 0x11
  | .pneg _ _ => 0x20
  | .padd _ _ _ => 0x21
  | .pdbl _ _ => 0x22
  | .paff _ _ => 0x23
  | .smul _ _ _ => 0x30
  | .kpub _ _ => 0x40
  | .kdrv _ _ _ => 0x41
  | .pack _ _ => 0x42
  | .unpack _ _ => 0x43

/-- The command word of a command (R85): fields of kind `-` and reserved bits are 0. -/
def encode (i : Instr) : Word :=
  match i with
  | .add d a b | .sub d a b | .mul d a b | .div d a b | .rem d a b => rWord i.opcode d a b
  | .and d a b | .or d a b | .xor d a b | .shl d a b | .shr d a b => rWord i.opcode d a b
  | .shli d a imm | .shri d a imm => iWord i.opcode d a imm
  | .cmp a b => rWord i.opcode 0 a b
  | .cvt64 d a => rWord i.opcode d a 0
  | .invmod d a b => rWord i.opcode d a b
  | .ldc d idx => iWord i.opcode d 0 idx
  | .pldg d => rWord i.opcode d 0 0
  | .pneg d a | .pdbl d a | .paff d a => rWord i.opcode d a 0
  | .padd d a b => rWord i.opcode d a b
  | .smul d a b => rWord i.opcode d a b
  | .kpub d a => rWord i.opcode d a 0
  | .kdrv d a b => rWord i.opcode d a b
  | .pack d a => rWord i.opcode d a 0
  | .unpack d a => rWord i.opcode d a 0

/-- The bytes of a command, lowest byte lane first. -/
def encodeBytes (i : Instr) : List Byte := wordBytes (encode i)

end Sys2Proof
end

