-- ==== Sys2Proof/Config.lean ====
section
/-! DEFINITION. What the spec leaves open. Every constant here is `opaque` with no body: no proof can know its value,
so a statement that mentions one holds whatever the value is. -/

namespace Sys2Proof.Config

/-- Unspecified contents of W[i] (10_state.md R20, 70_reset_and_hazards.md R282). The first argument is the draw
counter of the state, so different draws need not agree. Log 2, 6, 9. -/
opaque unspecifiedW : Nat → Fin 16 → Value

/-- Unspecified contents of coordinate c (0 X, 1 Y, 2 Z) of PT[i] (10_state.md R27, 70_reset_and_hazards.md R282).
Log 2, 6, 9. -/
opaque unspecifiedPT : Nat → Fin 8 → Fin 3 → Value

/-- The answer of a bus read whose value the spec leaves unspecified: a read of W, PT or FLAGS while BUSY = 1
(20_memory.md R59) or of a limb of an uninitialised register (70_reset_and_hazards.md R282). "A fresh draw per read"
(93_implementation_defined.md I2): the argument is the draw counter. Log 6. -/
opaque unspecifiedRead : Nat → Word

/-- `BASE`, where the platform puts the register window in the host's address space (20_memory.md R51, decision D5,
93_implementation_defined.md I13). Log 13. -/
opaque base : Nat

end Sys2Proof.Config
end

