-- ==== Sys2Proof/Machine/State.lean ====
section
/-! DEFINITION. The state of P224-CORE as plain data (10_state.md), the events of its host, and the state right after
a hard reset (70_reset_and_hazards.md R280). The constants ROM and ID are no fields (log 10), and CTRL "holds no
state" (10_state.md R26). The hidden state of R29 lives inside the completion step (log 8). -/

namespace Sys2Proof.Machine

/-- The content of a PT register: a Jacobian point (10_state.md R27). -/
structure Point where
  x : Value
  y : Value
  z : Value
  deriving DecidableEq, Repr

/-- The error codes 1 to 7 of 60_exceptions.md R250, in that order. Codes 8 to 15 are reserved and never produced
(93_implementation_defined.md I6), so they are not here. -/
inductive CmdError where
  /-- 1: OP is not in the opcode map. -/
  | illegalOpcode
  /-- 2: a reserved field is nonzero, or an index is out of range. -/
  | illegalOperand
  /-- 3: divisor or modulus 0 (DIV, REM, INVMOD). -/
  | divByZero
  /-- 4: the value is 0 modulo the modulus (INVMOD, PAFF, KPUB, KDRV). -/
  | notInvertible
  /-- 5: both slots' private scalars are 0 (KDRV). -/
  | cannotDerive
  /-- 6: the value is 2^64 or more (CVT64). -/
  | conversionOverflow
  /-- 7: a point coordinate is P or more. -/
  | operandRange
  deriving DecidableEq, Repr

/-- FLAGS (10_state.md R22). Bits 31:3 are reserved and read 0, so only the fields are stored. -/
structure Flags where
  eq : Bool
  lt : Bool
  gt : Bool
  deriving DecidableEq, Repr

/-- STATUS (10_state.md R24). Reserved bits read 0 and ignore writes, so only the fields are stored. -/
structure Status where
  busy     : Bool
  done     : Bool
  err      : Bool
  conflict : Bool
  /-- ERRCODE. `none` is code 0, NONE. -/
  errcode  : Option CmdError
  deriving DecidableEq, Repr

/-- What can happen to the block from outside, and the core's turn (00_scope.md R6, 20_memory.md R60). -/
inductive Event where
  /-- The host's BusRead at an address, with its width in bits (20_memory.md R53, R55). -/
  | read (addr : Addr) (width : Nat)
  /-- The host's BusWrite of a value at an address, with its width in bits. -/
  | write (addr : Addr) (width : Nat) (v : Word)
  /-- The platform asserts the reset input (70_reset_and_hazards.md R280). -/
  | hardReset
  /-- The core moves: a running command completes (R300). It is where LATENCY shows (log 5). -/
  | coreTurn
  deriving DecidableEq, Repr

/-- What the last bus access answered to the host (log 14). -/
inductive Response where
  /-- No access has been made. -/
  | none
  /-- A BusRead of `addr` returned `v`. -/
  | data (addr : Addr) (v : Word)
  /-- A BusWrite to `addr` was taken by the bus, whatever the location did with it. -/
  | written (addr : Addr)
  /-- The access to `addr` was refused with a bus error (20_memory.md R55, 60_exceptions.md R261). -/
  | busError (addr : Addr)
  deriving DecidableEq, Repr

/-- The model faults of the spec. Both are RECORDED in the state and the machine goes on, because the spec records
them and nothing on the hardware stops (70_reset_and_hazards.md R282, R296, log 2, 4); `step` answers `fault` nowhere.
Both are safe: a claim that takes "no fault recorded" as a premise rests on nothing unspecified. -/
inductive Fault where
  /-- A command read an uninitialised register as a source (R282). Recorded by `State.accept`. Safe. -/
  | uninitialisedSource
  /-- The host made an access the bus refuses (20_memory.md R55). Recorded by `State.refuseAccess`. Safe. -/
  | hostAccess
  deriving DecidableEq, Repr

/-- Reasons to give a command no meaning. -/
inductive Refusal where
  /-- The command of this mnemonic has no meaning in the model yet. Answered only by an arm of `exec` that names it;
  no arm does. Safe. -/
  | notModelled (mnemonic : String)
  deriving DecidableEq, Repr

/-- The machine. -/
structure State where
  /-- W[0..15] (10_state.md R20). -/
  w : Vector Value 16
  /-- PT[0..7] (R27). -/
  pt : Vector Point 8
  /-- FLAGS (R22). -/
  flags : Flags
  /-- STATUS (R24). -/
  status : Status
  /-- CMD, the last accepted command word (R25, R29 item 1). -/
  cmd : Word
  /-- Bit j of entry i: limb j of W[i] holds a value since the last hard reset. All ones is the initialised mark of
  W[i] (70_reset_and_hazards.md R282). -/
  wLimbs : Vector (BitVec 16) 16
  /-- Bit 16c + j of entry i: limb j of coordinate c of PT[i] holds a value since the last hard reset. All ones is
  the initialised mark of PT[i] (R282). -/
  ptLimbs : Vector (BitVec 48) 8
  /-- A command has read an uninitialised register: "recorded and never cleared" (R282, R296). -/
  uninitFault : Bool
  /-- The host has made a refused access (20_memory.md R55, R296). -/
  busFault : Bool
  /-- The model's own: the events still to come, oldest first, one total order (20_memory.md R60, log 5). -/
  schedule : List Event
  /-- The model's own: the answer to the host's last access (log 14). -/
  response : Response
  /-- The model's own: counts the free values drawn (log 6). No statement rests on its value. -/
  draws : Nat
  deriving DecidableEq, Repr

/-- STATUS = 0x00000000 (R24, R280). -/
def Status.zero : Status := { busy := false, done := false, err := false, conflict := false, errcode := none }

/-- FLAGS = 0x00000000 (R22, R280). -/
def Flags.zero : Flags := { eq := false, lt := false, gt := false }

/-- The machine right after a hard reset (R280, R283, the table of 10_state.md section 7). The spec leaves W and PT
unspecified: their zeros are a DESIGN CHOICE (log 1), and with every mark clear no command and no bus read gives
them out (log 2). `schedule`, `response` and `draws` are the model's own (log 5, 6, 14). -/
def State.reset : State where
  w := Vector.replicate 16 0
  pt := Vector.replicate 8 { x := 0, y := 0, z := 0 }
  flags := Flags.zero
  status := Status.zero
  cmd := 0
  wLimbs := Vector.replicate 16 0
  ptLimbs := Vector.replicate 8 0
  uninitFault := false
  busFault := false
  schedule := []
  response := .none
  draws := 0

end Sys2Proof.Machine
end

