-- ==== Sys2Proof/Machine/Flags.lean ====
section
/-! DEFINITION. FLAGS and STATUS as the words the host reads, the comparison that writes FLAGS, and what a host write
to STATUS clears (10_state.md R22, R24, 40_integer.md R116). -/

namespace Sys2Proof.Machine

/-- One bit of a word. -/
def bitAt (b : Bool) (k : Nat) : Word := if b then BitVec.twoPow 32 k else 0

/-- FLAGS as a word: EQ bit 0, LT bit 1, GT bit 2, the rest 0 (R22). -/
def Flags.word (f : Flags) : Word := bitAt f.eq 0 ||| bitAt f.lt 1 ||| bitAt f.gt 2

/-- The unsigned comparison of CMP (40_integer.md R116). -/
def compareFlags (a b : Value) : Flags := { eq := a == b, lt := a.ult b, gt := b.ult a }

/-- The code of an error (60_exceptions.md R250). -/
def CmdError.code : CmdError → BitVec 4
  | .illegalOpcode => 1
  | .illegalOperand => 2
  | .divByZero => 3
  | .notInvertible => 4
  | .cannotDerive => 5
  | .conversionOverflow => 6
  | .operandRange => 7

/-- ERRCODE: 0 when there is none (R24). -/
def Status.errcodeField (st : Status) : BitVec 4 :=
  match st.errcode with
  | none => 0
  | some e => e.code

/-- STATUS as a word: BUSY bit 0, DONE 1, ERR 2, CONFLICT 3, ERRCODE 11:8, the rest 0 (R24). -/
def Status.word (st : Status) : Word :=
  bitAt st.busy 0 ||| bitAt st.done 1 ||| bitAt st.err 2 ||| bitAt st.conflict 3 |||
    (st.errcodeField.setWidth 32 <<< 8)

/-- A host write of `v` to STATUS: each RW1C bit written with 1 is cleared, ERRCODE with ERR, nothing else changes
(R24, 20_memory.md R63). This is how the host clears an error (60_exceptions.md R257). -/
def Status.clearedBy (st : Status) (v : Word) : Status :=
  { busy := st.busy
    done := st.done && !v.getLsbD 1
    err := st.err && !v.getLsbD 2
    conflict := st.conflict && !v.getLsbD 3
    errcode := if v.getLsbD 2 then none else st.errcode }

/-- STATUS at a command's acceptance: BUSY set, DONE, ERR and ERRCODE cleared, CONFLICT kept
(60_exceptions.md R255). -/
def Status.accepted (st : Status) : Status :=
  { st with busy := true, done := false, err := false, errcode := none }

/-- STATUS at completion without error (R253). -/
def Status.completed (st : Status) : Status := { st with busy := false, done := true }

/-- STATUS at completion with an error (R254). -/
def Status.failed (st : Status) (e : CmdError) : Status :=
  { st with busy := false, done := true, err := true, errcode := some e }

end Sys2Proof.Machine
end

