-- ==== Sys2Proof/Machine/Ops.lean ====
section
/-! DEFINITION. The named operations over the register files and the command's life cycle: initialised marks, operand
reads, completion with and without error (the block's only "exception": an error status, 60_exceptions.md R254, R259),
and the two resets. Acceptance is in Bus.lean, since it decodes. -/

namespace Sys2Proof.Machine

/-! ## Limbs (20_memory.md R52) -/

/-- Limb j of a value: bits 32j+31 to 32j. -/
def limb (v : Value) (j : Fin 16) : Word := v.extractLsb' (32 * j.val) 32

/-- The value with limb j replaced, its other 480 bits unchanged. -/
def setLimb (v : Value) (j : Fin 16) (x : Word) : Value :=
  (v &&& ~~~((0xFFFFFFFF : Value) <<< (32 * j.val))) ||| (x.setWidth 512 <<< (32 * j.val))

/-- Coordinate c of a point: 0 is X, 1 is Y, 2 is Z. -/
def Point.coord (p : Point) (c : Fin 3) : Value :=
  match c with
  | 0 => p.x
  | 1 => p.y
  | 2 => p.z

/-- The point with coordinate c replaced. -/
def Point.setCoord (p : Point) (c : Fin 3) (v : Value) : Point :=
  match c with
  | 0 => { p with x := v }
  | 1 => { p with y := v }
  | 2 => { p with z := v }

/-! ## Initialised marks (70_reset_and_hazards.md R282) -/

/-- The initialised mark of W[i]. -/
def State.wMarked (s : State) (i : WReg) : Bool := s.wLimbs[i] == BitVec.allOnes 16

/-- The initialised mark of PT[i]. -/
def State.ptMarked (s : State) (i : PReg) : Bool := s.ptLimbs[i] == BitVec.allOnes 48

/-! ## Operand reads

An initialised register gives its content. An uninitialised one gives a free value: the spec leaves its content
unspecified and the result of the command undefined (R282, log 2). The fault is recorded at acceptance. -/

/-- W[i] as a command reads it. -/
def State.srcW (s : State) (i : WReg) : Value :=
  if s.wMarked i then s.w[i] else Config.unspecifiedW s.draws i

/-- An arbitrary content of PT[i]. -/
def unspecifiedPoint (n : Nat) (i : PReg) : Point :=
  { x := Config.unspecifiedPT n i 0, y := Config.unspecifiedPT n i 1, z := Config.unspecifiedPT n i 2 }

/-- PT[i] as a command reads it. -/
def State.srcPT (s : State) (i : PReg) : Point :=
  if s.ptMarked i then s.pt[i] else unspecifiedPoint s.draws i

/-! ## Register writes of a command -/

/-- W[i] <- v, which also sets the mark of W[i] (R282). -/
def State.putW (s : State) (i : WReg) (v : Value) : State :=
  { s with w := s.w.set i v, wLimbs := s.wLimbs.set i (BitVec.allOnes 16) }

/-- PT[i] <- p, which also sets the mark of PT[i] (R282). -/
def State.putPT (s : State) (i : PReg) (p : Point) : State :=
  { s with pt := s.pt.set i p, ptLimbs := s.ptLimbs.set i (BitVec.allOnes 48) }

/-- The writes a command's pseudocode names (00_scope.md R10). At most one register of each file, and FLAGS. -/
structure Writes where
  w : Option (WReg × Value) := none
  pt : Option (PReg × Point) := none
  flags : Option Flags := none
  deriving DecidableEq, Repr

/-- The writes, performed at once. -/
def State.perform (s : State) (wr : Writes) : State :=
  let s₁ := match wr.w with | none => s | some (i, v) => s.putW i v
  let s₂ := match wr.pt with | none => s₁ | some (i, p) => s₁.putPT i p
  match wr.flags with | none => s₂ | some f => { s₂ with flags := f }

/-! ## Completion (60_exceptions.md R253, R254) -/

/-- Completion without error: every write together with BUSY <- 0 and DONE <- 1 (R253). -/
def State.complete (s : State) (wr : Writes) : State := { s.perform wr with status := s.status.completed }

/-- Completion with an error, the shared way every failing command ends: no write, BUSY <- 0, DONE <- 1, ERR <- 1,
ERRCODE <- the code; everything else is as it was (R254). -/
def State.fail (s : State) (e : CmdError) : State := { s with status := s.status.failed e }

/-- Completion of a command whose pseudocode ended in these writes or raised this error (R13). -/
def State.finish (s : State) : Except CmdError Writes → State
  | .ok wr => s.complete wr
  | .error e => s.fail e

/-- A command that writes one W register. -/
def Writes.toW (d : WReg) (v : Value) : Writes := { w := some (d, v) }

/-- A command that writes one PT register. -/
def Writes.toPT (d : PReg) (p : Point) : Writes := { pt := some (d, p) }

/-- The error a word that fails decode completes with (30_encoding.md R86, R87). -/
def decodeFailure : DecodeError → CmdError
  | .illegalOpcode => .illegalOpcode
  | .illegalOperand => .illegalOperand

/-! ## Clearing and resets: there is no other way back from an error (R257, R260) -/

/-- A host write to STATUS (10_state.md R24). -/
def State.writeStatus (s : State) (v : Word) : State := { s with status := s.status.clearedBy v }

/-- Soft reset (70_reset_and_hazards.md R281): the running command is abandoned without a write, STATUS, FLAGS and CMD
become 0, W and PT and their marks stay. Recorded faults are never cleared (R282). -/
def State.softReset (s : State) : State := { s with status := Status.zero, flags := Flags.zero, cmd := 0 }

/-- Hard reset (R280): as a soft reset, and W and PT become unspecified, here free values, with every mark clear.
Recorded faults are never cleared (R282, log 3); the events still to come and the host's last answer are not the
block's. -/
def State.hardReset (s : State) : State :=
  { s with
    status := Status.zero
    flags := Flags.zero
    cmd := 0
    w := Vector.ofFn (fun i => Config.unspecifiedW s.draws i)
    pt := Vector.ofFn (fun i => unspecifiedPoint s.draws i)
    wLimbs := Vector.replicate 16 0
    ptLimbs := Vector.replicate 8 0
    draws := s.draws + 1 }

end Sys2Proof.Machine
end

