-- ==== Sys2Proof/Machine/Operands.lean ====
section
/-! DEFINITION. The operand forms: immediates, key slots, and which registers each command reads as sources
(30_encoding.md R83, R84, 70_reset_and_hazards.md R282, R295). -/

namespace Sys2Proof.Machine

/-- An immediate as an amount: zero-extended, never scaled (30_encoding.md R84). -/
def immValue (imm : Imm12) : Value := imm.setWidth 512

/-- W[k] of key slot k (44_key.md R200). -/
def slotW (k : Slot) : WReg := ⟨k.val, by omega⟩

/-- PT[k] of key slot k (44_key.md R200). -/
def slotPT (k : Slot) : PReg := k

/-- A register that a command reads. -/
inductive Source where
  | w (i : WReg)
  | pt (i : PReg)
  deriving DecidableEq, Repr

/-- The source registers a command reads at acceptance, on the path it takes (R295). Every command reads all its
sources (40_integer.md R100, 42_point.md R150, 60_exceptions.md R255) but KDRV, which reads PT of one slot at most,
chosen by the scalars (44_key.md R202). Log 21. -/
def sources (i : Instr) (s : State) : List Source :=
  match i with
  | .add _ a b | .sub _ a b | .mul _ a b | .div _ a b | .rem _ a b => [.w a, .w b]
  | .and _ a b | .or _ a b | .xor _ a b | .shl _ a b | .shr _ a b => [.w a, .w b]
  | .shli _ a _ | .shri _ a _ => [.w a]
  | .cmp a b => [.w a, .w b]
  | .cvt64 _ a => [.w a]
  | .invmod _ a b => [.w a, .w b]
  | .ldc _ _ => []
  | .pldg _ => []
  | .pneg _ a | .pdbl _ a | .paff _ a => [.pt a]
  | .padd _ a b => [.pt a, .pt b]
  | .smul _ a b => [.pt a, .w b]
  | .kpub _ a => [.w a]
  | .kdrv _ a b =>
    [.w (slotW a), .w (slotW b)] ++
      (if s.srcW (slotW a) ≠ 0 then [.pt (slotPT b)]
       else if s.srcW (slotW b) ≠ 0 then [.pt (slotPT a)]
       else [])
  | .pack _ a => [.pt a]
  | .unpack _ a => [.w a]

/-- The mark of a source register (R282). -/
def State.marked (s : State) : Source → Bool
  | .w i => s.wMarked i
  | .pt i => s.ptMarked i

/-- Every register the command reads is initialised. -/
def State.sourcesMarked (s : State) (i : Instr) : Bool := (sources i s).all s.marked

/-- Running this command word would read an uninitialised register. A word that fails decode reads none (R295). -/
def State.readsUninitialised (s : State) (c : Word) : Bool :=
  match decode c with
  | .ok i => !s.sourcesMarked i
  | .error _ => false

end Sys2Proof.Machine
end

