-- ==== Sys2Proof/Machine/Rom.lean ====
section
/-! DEFINITION. The constants of the block: the ROM of curve constants (41_constants.md), the ID register, and the
fixed parameters of 00_scope.md R7 that a command uses. They never change, so they are no part of the state
(log 10). -/

namespace Sys2Proof.Machine

/-- ROM[0] = P = 2^224 − 2^96 + 1, the field prime (R141). -/
def P : Value := 0xffffffffffffffffffffffffffffffff000000000000000000000001#512

/-- ROM[1] = A = P − 3, the curve coefficient (R142). -/
def A : Value := 0xfffffffffffffffffffffffffffffffefffffffffffffffffffffffe#512

/-- ROM[2] = Gx (R143). -/
def Gx : Value := 0xb70e0cbd6bb4bf7f321390b94a03c1d356c21122343280d6115c1d21#512

/-- ROM[3] = Gy (R143). -/
def Gy : Value := 0xbd376388b5f723fb4c22dfe6cd4375a05a07476444d5819985007e34#512

/-- ROM[4] = N, the group order (R144). -/
def N : Value := 0xffffffffffffffffffffffffffff16a2e0b8f03e13dd29455c5c2a3d#512

/-- The ROM, in the order of R140 (10_state.md R28). -/
def rom : Vector Value 5 := #v[P, A, Gx, Gy, N]

/-- ID, which always reads "P224" in ASCII (10_state.md R23). -/
def idWord : Word := 0x50323234#32

/-- `ID`, the canonical identity (0, 0, 1) (00_scope.md R14). -/
def Point.identity : Point := { x := 0, y := 0, z := 1 }

/-- The base point G as a Jacobian point, (ROM[2], ROM[3], 1) (41_constants.md R146). -/
def Point.base : Point := { x := rom[2], y := rom[3], z := 1 }

/-- `MARKER` = 2^450 (00_scope.md R7). -/
def marker : Value := BitVec.twoPow 512 450

/-- `L` = 224, the key bit length (00_scope.md R7). -/
def keyBits : Nat := 224

end Sys2Proof.Machine
end

