-- ==== Sys2Proof/Machine/Bus.lean ====
section
/-! DEFINITION. The host's register window (20_memory.md): the address map, what a location holds, BusRead and
BusWrite, and the acceptance of a command (60_exceptions.md R255). -/

namespace Sys2Proof.Machine

/-- A location of the register window (R51, R52). -/
inductive Loc where
  | id
  | cmd
  | status
  | flags
  | ctrl
  /-- limb j of W[i] -/
  | w (i : WReg) (j : Fin 16)
  /-- limb j of coordinate c of PT[i] -/
  | pt (i : PReg) (c : Fin 3) (j : Fin 16)
  /-- limb j of ROM[r] -/
  | rom (r : Fin 5) (j : Fin 16)
  | reserved
  deriving DecidableEq, Repr

/-- The location at an aligned address (R51, R52). -/
def locate (a : Addr) : Loc :=
  let n := a.toNat
  if n = 0x0000 then .id
  else if n = 0x0004 then .cmd
  else if n = 0x0008 then .status
  else if n = 0x000C then .flags
  else if n = 0x0010 then .ctrl
  else if h : 0x1000 ≤ n ∧ n < 0x1400 then
    .w ⟨(n - 0x1000) / 0x40, by omega⟩ ⟨(n - 0x1000) % 0x40 / 4, by omega⟩
  else if h : 0x2000 ≤ n ∧ n < 0x2600 then
    .pt ⟨(n - 0x2000) / 0xC0, by omega⟩ ⟨(n - 0x2000) % 0xC0 / 0x40, by omega⟩ ⟨(n - 0x2000) % 0x40 / 4, by omega⟩
  else if h : 0x3000 ≤ n ∧ n < 0x3140 then
    .rom ⟨(n - 0x3000) / 0x40, by omega⟩ ⟨(n - 0x3000) % 0x40 / 4, by omega⟩
  else .reserved

/-- The address of limb j of W[i] (R52). -/
def wAddr (i : WReg) (j : Fin 16) : Addr := BitVec.ofNat 16 (0x1000 + 0x40 * i.val + 4 * j.val)

/-- The address of limb j of coordinate c of PT[i] (R52). -/
def ptAddr (i : PReg) (c : Fin 3) (j : Fin 16) : Addr :=
  BitVec.ofNat 16 (0x2000 + 0xC0 * i.val + 0x40 * c.val + 4 * j.val)

/-- The address of limb j of ROM[r] (R52). -/
def romAddr (r : Fin 5) (j : Fin 16) : Addr := BitVec.ofNat 16 (0x3000 + 0x40 * r.val + 4 * j.val)

/-- CMD, STATUS, FLAGS and CTRL (R51). -/
def cmdAddr : Addr := 0x0004#16
def statusAddr : Addr := 0x0008#16
def flagsAddr : Addr := 0x000C#16
def ctrlAddr : Addr := 0x0010#16

/-- The host's own address of a window offset: `BASE` plus the offset (R51, log 13). -/
def hostAddress (a : Addr) : Nat := Config.base + a.toNat

/-- The bus performs an access only if it is 32 bits wide and aligned (R55). -/
def accessOk (a : Addr) (width : Nat) : Bool := width == 32 && a.extractLsb' 0 2 == 0

/-! ## What the window holds -/

/-- The word stored at a location: R23 to R26 for the control registers, R52 for the limbs. Reserved locations and
CTRL read 0 (R58). Nothing is drawn here: it is the content, not what a read of it answers. -/
def State.storedAt (s : State) : Loc → Word
  | .id => idWord
  | .cmd => s.cmd
  | .status => s.status.word
  | .flags => s.flags.word
  | .ctrl => 0
  | .w i j => limb s.w[i] j
  | .pt i c j => limb (s.pt[i].coord c) j
  | .rom r j => limb rom[r] j
  | .reserved => 0

/-- The word stored at an aligned address. -/
def State.stored (s : State) (a : Addr) : Word := s.storedAt (locate a)

/-- One byte of the window: byte lane `a mod 4` of the word at the aligned address below (R54). The window is this
computed view of the registers, not a memory of its own (log 22). -/
def State.windowByte (s : State) (a : Addr) : Byte :=
  byteLane (s.stored (a &&& 0xFFFC#16)) ⟨a.toNat % 4, by omega⟩

/-- A read of this location answers an unspecified value: W, PT and FLAGS while BUSY = 1 (R59), and a limb of an
uninitialised register at any time (70_reset_and_hazards.md R282). -/
def State.drawsAt (s : State) : Loc → Bool
  | .flags => s.status.busy
  | .w i _ => s.status.busy || !s.wMarked i
  | .pt i _ _ => s.status.busy || !s.ptMarked i
  | .id | .cmd | .status | .ctrl | .rom _ _ | .reserved => false

/-! ## Accesses -/

/-- An access the bus refuses: an error answer, the fault of the host recorded, nothing else (R55, 60_exceptions.md
R261, log 4). -/
def State.refuseAccess (s : State) (a : Addr) : State := { s with response := .busError a, busFault := true }

/-- BusRead (R53, R58, R59). It has no side effect on the block (R57). -/
def State.busRead (s : State) (a : Addr) (width : Nat) : State :=
  if accessOk a width then
    if s.drawsAt (locate a) then
      { s with response := .data a (Config.unspecifiedRead s.draws), draws := s.draws + 1 }
    else { s with response := .data a (s.stored a) }
  else s.refuseAccess a

/-- Acceptance of a command word while BUSY = 0 (60_exceptions.md R255): CMD <- v, BUSY <- 1, DONE, ERR and ERRCODE
cleared, CONFLICT unchanged. The core reads its sources now, so a command that reads an uninitialised register is
recorded now (70_reset_and_hazards.md R282, log 3). The values it reads are those `exec` finds at completion,
since nothing changes them while BUSY = 1 (log 7). -/
def State.accept (s : State) (v : Word) : State :=
  { s with
    cmd := v
    status := s.status.accepted
    uninitFault := s.uninitFault || s.readsUninitialised v
    draws := if s.readsUninitialised v then s.draws + 1 else s.draws }

/-- A write dropped because BUSY = 1: CONFLICT is set (R59, 60_exceptions.md R256). -/
def State.conflict (s : State) : State := { s with status := { s.status with conflict := true } }

/-- A limb write to W[i]: those 32 bits change, and the limb counts towards the mark (R52, R282). -/
def State.pokeW (s : State) (i : WReg) (j : Fin 16) (v : Word) : State :=
  { s with
    w := s.w.set i (setLimb s.w[i] j v)
    wLimbs := s.wLimbs.set i (s.wLimbs[i] ||| BitVec.twoPow 16 j.val) }

/-- A limb write to PT[i]. -/
def State.pokePT (s : State) (i : PReg) (c : Fin 3) (j : Fin 16) (v : Word) : State :=
  { s with
    pt := s.pt.set i (s.pt[i].setCoord c (setLimb (s.pt[i].coord c) j v))
    ptLimbs := s.ptLimbs.set i (s.ptLimbs[i] ||| BitVec.twoPow 48 (16 * c.val + j.val)) }

/-- The effect of a write at a location (R57 to R59). A dropped write counts towards no mark (log 16). -/
def State.writeAt (s : State) (l : Loc) (v : Word) : State :=
  match l with
  | .cmd => if s.status.busy then s.conflict else s.accept v
  | .status => s.writeStatus v
  | .ctrl => if v.getLsbD 0 then s.softReset else s
  | .w i j => if s.status.busy then s.conflict else s.pokeW i j v
  | .pt i c j => if s.status.busy then s.conflict else s.pokePT i c j v
  | .id | .flags | .rom _ _ | .reserved => s

/-- BusWrite (R53, R55). -/
def State.busWrite (s : State) (a : Addr) (width : Nat) (v : Word) : State :=
  if accessOk a width then { s.writeAt (locate a) v with response := .written a } else s.refuseAccess a

end Sys2Proof.Machine
end

