-- ==== Sys2Proof/Machine/Inverse.lean ====
section
/-! DEFINITION. `inverse_mod` (40_integer.md R114): the source's extended Euclidean algorithm, step for step, every
operation on 512-bit values with wrap-around. -/

namespace Sys2Proof.Machine

/-- The running values of the loop (10_state.md R29 item 2). -/
structure Euclid where
  r : Value
  newR : Value
  t : Value
  newT : Value
  deriving DecidableEq, Repr

/-- The values before the loop: `r <- a % m; new_r <- m; t <- 1; new_t <- 0`. -/
def euclidStart (a m : Value) : Euclid := { r := a % m, newR := m, t := 1, newT := 0 }

/-- One pass of the loop, both pairs assigned simultaneously. -/
def euclidPass (m : Value) (e : Euclid) : Euclid :=
  let quotient := e.r / e.newR
  { r := e.newR
    newR := e.r - quotient * e.newR
    t := e.newT
    newT := (e.t + (m - quotient % m) * e.newT) % m }

/-- `while new_r != 0`, for at most the given number of passes. -/
def euclidLoop (m : Value) : Nat → Euclid → Euclid
  | 0, e => e
  | n + 1, e => if e.newR = 0 then e else euclidLoop m n (euclidPass m e)

/-- More passes than any input needs, so the limit never cuts the loop off (70_reset_and_hazards.md R302;
`euclid_ends` proves it, log 12). -/
def euclidPasses : Nat := 1026

/-- `inverse_mod(a, m)` (R114). The order of the two errors is that of R115. -/
def inverseMod (a m : Value) : Except CmdError Value :=
  if m = 0 then .error .divByZero
  else if a % m = 0 then .error .notInvertible
  else .ok (euclidLoop m euclidPasses (euclidStart a m)).t

end Sys2Proof.Machine
end

