-- ==== Sys2Proof/Machine/Shift.lean ====
section
/-! DEFINITION. Shifts by an amount of any size (40_integer.md R109), shared by SHL, SHR, SHLI, SHRI, PACK and
UNPACK. -/

namespace Sys2Proof.Machine

/-- `shl(v, s)`: 0 from 512 on, else v * 2^s mod 2^512. -/
def shl (v : Value) (s : Nat) : Value := if 512 ≤ s then 0 else v <<< s

/-- `shr(v, s)`: 0 from 512 on, else floor(v / 2^s). -/
def shr (v : Value) (s : Nat) : Value := if 512 ≤ s then 0 else v >>> s

end Sys2Proof.Machine
end

