-- ==== Sys2Proof/Machine/Integer.lean ====
section
/-! DEFINITION. The 512-bit integer commands (40_integer.md R100 to R117). Each reads its sources before it writes,
writes one W register, or FLAGS for CMP, and nothing when it raises an error. -/

namespace Sys2Proof.Machine

/-- What every meaning answers: the completion of the command (60_exceptions.md R253, R254). -/
abbrev Result := Host.Outcome State Fault Refusal

/-- ADD: `W[d] <- W[a] +w W[b]` (R101). -/
def execAdd (d a b : WReg) (s : State) : Result := .next (s.finish (.ok (Writes.toW d (s.srcW a + s.srcW b))))

/-- SUB: `W[d] <- W[a] -w W[b]` (R102). -/
def execSub (d a b : WReg) (s : State) : Result := .next (s.finish (.ok (Writes.toW d (s.srcW a - s.srcW b))))

/-- MUL: the low 512 bits of the product (R103). -/
def execMul (d a b : WReg) (s : State) : Result := .next (s.finish (.ok (Writes.toW d (s.srcW a * s.srcW b))))

/-- DIV: unsigned floor division, DIV_BY_ZERO for divisor 0 (R104). -/
def execDiv (d a b : WReg) (s : State) : Result :=
  .next (s.finish (if s.srcW b = 0 then .error .divByZero else .ok (Writes.toW d (s.srcW a / s.srcW b))))

/-- REM: unsigned remainder, DIV_BY_ZERO for divisor 0 (R105). -/
def execRem (d a b : WReg) (s : State) : Result :=
  .next (s.finish (if s.srcW b = 0 then .error .divByZero else .ok (Writes.toW d (s.srcW a % s.srcW b))))

/-- AND (R106). -/
def execAnd (d a b : WReg) (s : State) : Result := .next (s.finish (.ok (Writes.toW d (s.srcW a &&& s.srcW b))))

/-- OR (R107). -/
def execOr (d a b : WReg) (s : State) : Result := .next (s.finish (.ok (Writes.toW d (s.srcW a ||| s.srcW b))))

/-- XOR (R108). -/
def execXor (d a b : WReg) (s : State) : Result := .next (s.finish (.ok (Writes.toW d (s.srcW a ^^^ s.srcW b))))

/-- SHL: the whole of W[b] is the amount (R110). -/
def execShl (d a b : WReg) (s : State) : Result :=
  .next (s.finish (.ok (Writes.toW d (shl (s.srcW a) (s.srcW b).toNat))))

/-- SHR: logical, the whole of W[b] is the amount (R111). -/
def execShr (d a b : WReg) (s : State) : Result :=
  .next (s.finish (.ok (Writes.toW d (shr (s.srcW a) (s.srcW b).toNat))))

/-- SHLI: shift left by an immediate 0..4095 (R112). -/
def execShli (d a : WReg) (imm : Imm12) (s : State) : Result :=
  .next (s.finish (.ok (Writes.toW d (shl (s.srcW a) (immValue imm).toNat))))

/-- SHRI: logical shift right by an immediate 0..4095 (R113). -/
def execShri (d a : WReg) (imm : Imm12) (s : State) : Result :=
  .next (s.finish (.ok (Writes.toW d (shr (s.srcW a) (immValue imm).toNat))))

/-- CMP: writes all of FLAGS (R116). -/
def execCmp (a b : WReg) (s : State) : Result :=
  .next (s.finish (.ok { flags := some (compareFlags (s.srcW a) (s.srcW b)) }))

/-- CVT64: W[a] when it is below 2^64, else CONVERSION_OVERFLOW (R117). -/
def execCvt64 (d a : WReg) (s : State) : Result :=
  .next (s.finish (if BitVec.twoPow 512 64 ≤ s.srcW a then .error .conversionOverflow
    else .ok (Writes.toW d (s.srcW a))))

/-- INVMOD: `W[d] <- inverse_mod(W[a], W[b])` (R115). -/
def execInvmod (d a b : WReg) (s : State) : Result :=
  .next (s.finish (match inverseMod (s.srcW a) (s.srcW b) with
    | .ok t => .ok (Writes.toW d t)
    | .error e => .error e))

end Sys2Proof.Machine
end

