-- ==== Sys2Proof/Machine/Constants.lean ====
section
/-! DEFINITION. The constant loads (41_constants.md R145, R146). They read no register. -/

namespace Sys2Proof.Machine

/-- LDC: `W[d] <- ROM[imm]`. An index of 5 or more is ILLEGAL_OPERAND (R145); the decoder already rejects it, so this
is reached only by a term that is not well formed (log 19). -/
def execLdc (d : WReg) (idx : Imm12) (s : State) : Result :=
  .next (s.finish (if h : idx.toNat < 5 then .ok (Writes.toW d (rom[idx.toNat]'h)) else .error .illegalOperand))

/-- PLDG: `PT[d] <- (ROM[2], ROM[3], 1)` (R146). -/
def execPldg (d : PReg) (s : State) : Result := .next (s.finish (.ok (Writes.toPT d Point.base)))

end Sys2Proof.Machine
end

