-- ==== Sys2Proof/Machine/Jacobian.lean ====
section
/-! DEFINITION. Field and point helpers (00_scope.md R12, R14, 42_point.md R151 to R158). The formulas are those the
spec writes out, EFD add-1998-cmo-2 and dbl-2007-bl (decision D20, log 11). The temporaries keep the spec's names. -/

namespace Sys2Proof.Machine

/-! ## The field modulo P (R12) -/

/-- (x + y) mod P. -/
def fadd (x y : Value) : Value := (x + y) % P

/-- (x + P - y) mod P. -/
def fsub (x y : Value) : Value := (x + P - y) % P

/-- (x * y) mod P. -/
def fmul (x y : Value) : Value := (x * y) % P

/-- x squared mod P. -/
def fsq (x : Value) : Value := fmul x x

/-- `k·x` = (k * x) mod P, for k in 2, 3, 8. -/
def fsmall (k x : Value) : Value := (k * x) % P

/-! ## Points -/

/-- `isId`: X = 0 and Y = 0, whatever Z is (R14). -/
def Point.isId (p : Point) : Bool := p.x == 0 && p.y == 0

/-- Every coordinate is below P, as raw 512-bit values (R151). -/
def Point.inRange (p : Point) : Bool := p.x.ult P && p.y.ult P && p.z.ult P

/-- `check_range(p)` (R151). -/
def checkRange (p : Point) : Except CmdError Unit := if p.inRange then .ok () else .error .operandRange

/-- `pneg` (R152): Y = 0 stays 0. -/
def pneg (p : Point) : Point := { x := p.x, y := (P - p.y) % P, z := p.z }

/-- The doubling formulas (R156). -/
def pdblFormula (p : Point) : Point :=
  let xx := fsq p.x
  let yy := fsq p.y
  let yyyy := fsq yy
  let zz := fsq p.z
  let s := fsmall 2 (fsub (fsub (fsq (fadd p.x yy)) xx) yyyy)
  let m := fadd (fsmall 3 xx) (fmul A (fsq zz))
  let t := fsub (fsq m) (fsmall 2 s)
  { x := t
    y := fsub (fmul m (fsub s t)) (fsmall 8 yyyy)
    z := fsub (fsub (fsq (fadd p.y p.z)) yy) zz }

/-- `pdbl` (R155): any identity gives the canonical one. -/
def pdbl (p : Point) : Point := if p.isId then Point.identity else pdblFormula p

/-- X3, Y3, Z3 of the addition formulas, from the terms the equality test has used (R154). -/
def paddFormula (z1 z2 u1 u2 s1 s2 : Value) : Point :=
  let h := fsub u2 u1
  let hh := fsq h
  let hhh := fmul h hh
  let r := fsub s2 s1
  let v := fmul u1 hh
  let x3 := fsub (fsub (fsq r) hhh) (fsmall 2 v)
  { x := x3
    y := fsub (fmul r (fsub v x3)) (fmul s1 hhh)
    z := fmul (fmul z1 z2) h }

/-- `padd` (R153), its checks in the spec's order. -/
def padd (p q : Point) : Point :=
  if p.isId then q
  else if q.isId then p
  else
    let z1z1 := fsq p.z
    let z2z2 := fsq q.z
    let u1 := fmul p.x z2z2
    let u2 := fmul q.x z1z1
    let s1 := fmul (fmul p.y q.z) z2z2
    let s2 := fmul (fmul q.y p.z) z1z1
    if u1 = u2 then
      if s1 = s2 then pdbl p else Point.identity
    else paddFormula p.z q.z u1 u2 s1 s2

/-- An affine point as a Jacobian one (R158). -/
def lift (x y : Value) : Point := { x := x, y := y, z := 1 }

/-- `to_affine` (R157): fails only where the inverse of Z does. -/
def toAffine (p : Point) : Except CmdError Point :=
  match inverseMod p.z P with
  | .error e => .error e
  | .ok zi =>
    let zi2 := fsq zi
    let zi3 := fmul zi2 zi
    .ok (lift (fmul p.x zi2) (fmul p.y zi3))

end Sys2Proof.Machine
end

