-- ==== Sys2Proof/Machine/PointCmds.lean ====
section
/-! DEFINITION. The point commands (42_point.md R150, R151, R159 to R162). Each checks the range of every source
coordinate first, and writes one PT register. -/

namespace Sys2Proof.Machine

/-- PNEG (R159). -/
def execPneg (d a : PReg) (s : State) : Result :=
  .next (s.finish (match checkRange (s.srcPT a) with
    | .error e => .error e
    | .ok _ => .ok (Writes.toPT d (pneg (s.srcPT a)))))

/-- PADD (R160): the range of PT[a], then of PT[b]. -/
def execPadd (d a b : PReg) (s : State) : Result :=
  .next (s.finish (match checkRange (s.srcPT a), checkRange (s.srcPT b) with
    | .error e, _ => .error e
    | .ok _, .error e => .error e
    | .ok _, .ok _ => .ok (Writes.toPT d (padd (s.srcPT a) (s.srcPT b)))))

/-- PDBL (R161). -/
def execPdbl (d a : PReg) (s : State) : Result :=
  .next (s.finish (match checkRange (s.srcPT a) with
    | .error e => .error e
    | .ok _ => .ok (Writes.toPT d (pdbl (s.srcPT a)))))

/-- PAFF (R162): the range check before the inversion (60_exceptions.md R252). -/
def execPaff (d a : PReg) (s : State) : Result :=
  .next (s.finish (match checkRange (s.srcPT a) with
    | .error e => .error e
    | .ok _ =>
      match toAffine (s.srcPT a) with
      | .error e => .error e
      | .ok q => .ok (Writes.toPT d q)))

end Sys2Proof.Machine
end

