-- ==== Sys2Proof/Machine/Scalar.lean ====
section
/-! DEFINITION. The windowed signed-digit scalar multiplier (43_scalar.md). Its table, digits and accumulator are local
to one command, as the source has them (10_state.md R29 item 3, log 8). -/

namespace Sys2Proof.Machine

/-- `w` = 5, the window size (00_scope.md R7). -/
def windowBits : Nat := 5

/-- `NDIG` = L + 1 = 225 signed digits (00_scope.md R7). -/
def digitCount : Nat := keyBits + 1

/-- Reduction (R181). -/
def reduceScalar (k : Value) : Value := k % N

/-- `n` table entries from `p` on, each the entry before plus the point. -/
def tableFrom (base : Point) : Nat → Point → List Point
  | 0, _ => []
  | n + 1, p => p :: tableFrom base n (padd p base)

/-- The table T[0..15]: T[0] = ID, T[i] = padd(T[i-1], Pt) (R182). -/
def table (base : Point) : List Point := tableFrom base (2 ^ (windowBits - 1)) Point.identity

/-- The digit of an odd running value: its low 5 bits, taken as negative from 16 on (R183). -/
def oddDigit (v : Nat) : Int :=
  let win := v % 2 ^ windowBits
  if 2 ^ (windowBits - 1) ≤ win then (win : Int) - 2 ^ windowBits else win

/-- The digits of the running value `v` for the given number of positions, least significant first (R183). The digit
is subtracted (a negative one added back) and the value halved; positions not reached are 0. -/
def recodeFrom : Nat → Nat → List Int
  | 0, _ => []
  | n + 1, v =>
    if v = 0 then 0 :: recodeFrom n 0
    else if v % 2 = 1 then oddDigit v :: recodeFrom n (((v : Int) - oddDigit v).toNat / 2)
    else 0 :: recodeFrom n (v / 2)

/-- `recode(k')`: 225 digits (R183). -/
def recode (k : Value) : List Int := recodeFrom digitCount k.toNat

/-- One digit's addition to the accumulator (R184). -/
def addDigit (tab : List Point) (acc : Point) (d : Int) : Point :=
  if 0 < d then padd acc (tab.getD d.natAbs Point.identity)
  else if d < 0 then padd acc (pneg (tab.getD d.natAbs Point.identity))
  else acc

/-- Accumulation from the most significant digit to the least (R184): the digits above are worked first, then one
doubling and this digit's addition. -/
def accumulate (tab : List Point) : List Int → Point
  | [] => Point.identity
  | d :: ds => addDigit tab (pdbl (accumulate tab ds)) d

/-- `smul(Pt, k)` (R185). -/
def smul (base : Point) (k : Value) : Point := accumulate (table base) (recode (reduceScalar k))

/-- SMUL: the result stays Jacobian (R186). -/
def execSmul (d a : PReg) (b : WReg) (s : State) : Result :=
  .next (s.finish (match checkRange (s.srcPT a) with
    | .error e => .error e
    | .ok _ => .ok (Writes.toPT d (smul (s.srcPT a) (s.srcW b)))))

end Sys2Proof.Machine
end

