-- ==== Sys2Proof/Machine/Key.lean ====
section
/-! DEFINITION. The key commands (44_key.md R200 to R204). A key slot is the pair (W[k], PT[k]). -/

namespace Sys2Proof.Machine

/-- A command that writes a key slot. -/
def Writes.toSlot (d : Slot) (v : Value) (p : Point) : Writes := { w := some (slotW d, v), pt := some (slotPT d, p) }

/-- KPUB: the slot gets the scalar, stored as it is, and its affine public point (R201). -/
def execKpub (d : Slot) (a : WReg) (s : State) : Result :=
  .next (s.finish (match toAffine (smul Point.base (s.srcW a)) with
    | .error e => .error e
    | .ok q => .ok (Writes.toSlot d (s.srcW a) q)))

/-- The public point and the private scalar KDRV uses: the own scalar if there is one, else the peer's (R202). -/
def deriveOperands (a b : Slot) (s : State) : Except CmdError (Point × Value) :=
  if s.srcW (slotW a) ≠ 0 then
    .ok (lift (s.srcPT (slotPT b)).x (s.srcPT (slotPT b)).y, s.srcW (slotW a))
  else if s.srcW (slotW b) ≠ 0 then
    .ok (lift (s.srcPT (slotPT a)).x (s.srcPT (slotPT a)).y, s.srcW (slotW b))
  else .error .cannotDerive

/-- KDRV's shared point, with its errors in R202's order. -/
def derivedPoint (a b : Slot) (s : State) : Except CmdError Point :=
  match deriveOperands a b s with
  | .error e => .error e
  | .ok (q, k) =>
    match checkRange q with
    | .error e => .error e
    | .ok _ => toAffine (smul q k)

/-- KDRV: the slot gets private scalar 0 and the affine shared point (R202). -/
def execKdrv (d a b : Slot) (s : State) : Result :=
  .next (s.finish (match derivedPoint a b s with
    | .error e => .error e
    | .ok r => .ok (Writes.toSlot d 0 r)))

/-- The packed integer of a public point: marker, X and Y, joined by OR (R203). -/
def packPoint (p : Point) : Value := marker ||| shl p.x keyBits ||| p.y

/-- The public point of a packed integer: the marker is toggled by XOR (R204). -/
def unpackPoint (v : Value) : Point :=
  lift (shr (v ^^^ marker) keyBits) ((v ^^^ marker) &&& (BitVec.twoPow 512 keyBits - 1))

/-- PACK (R203). -/
def execPack (d : WReg) (a : PReg) (s : State) : Result :=
  .next (s.finish (.ok (Writes.toW d (packPoint (s.srcPT a)))))

/-- UNPACK: the slot gets private scalar 0 and the unpacked point (R204). -/
def execUnpack (d : Slot) (a : WReg) (s : State) : Result :=
  .next (s.finish (.ok (Writes.toSlot d 0 (unpackPoint (s.srcW a)))))

end Sys2Proof.Machine
end

