-- ==== Sys2Proof/Machine/Dispatch.lean ====
section
/-! DEFINITION. One arm per command (30_encoding.md R85): running it is its completion step. -/

namespace Sys2Proof.Machine

def exec (i : Instr) (s : State) : Host.Outcome State Fault Refusal :=
  match i with
  -- 40_integer.md
  | .add d a b => Sys2Proof.Machine.execAdd d a b s
  | .sub d a b => Sys2Proof.Machine.execSub d a b s
  | .mul d a b => Sys2Proof.Machine.execMul d a b s
  | .div d a b => Sys2Proof.Machine.execDiv d a b s
  | .rem d a b => Sys2Proof.Machine.execRem d a b s
  | .and d a b => Sys2Proof.Machine.execAnd d a b s
  | .or d a b => Sys2Proof.Machine.execOr d a b s
  | .xor d a b => Sys2Proof.Machine.execXor d a b s
  | .shl d a b => Sys2Proof.Machine.execShl d a b s
  | .shr d a b => Sys2Proof.Machine.execShr d a b s
  | .shli d a imm => Sys2Proof.Machine.execShli d a imm s
  | .shri d a imm => Sys2Proof.Machine.execShri d a imm s
  | .cmp a b => Sys2Proof.Machine.execCmp a b s
  | .cvt64 d a => Sys2Proof.Machine.execCvt64 d a s
  | .invmod d a b => Sys2Proof.Machine.execInvmod d a b s
  -- 41_constants.md
  | .ldc d idx => Sys2Proof.Machine.execLdc d idx s
  | .pldg d => Sys2Proof.Machine.execPldg d s
  -- 42_point.md
  | .pneg d a => Sys2Proof.Machine.execPneg d a s
  | .padd d a b => Sys2Proof.Machine.execPadd d a b s
  | .pdbl d a => Sys2Proof.Machine.execPdbl d a s
  | .paff d a => Sys2Proof.Machine.execPaff d a s
  -- 43_scalar.md
  | .smul d a b => Sys2Proof.Machine.execSmul d a b s
  -- 44_key.md
  | .kpub d a => Sys2Proof.Machine.execKpub d a s
  | .kdrv d a b => Sys2Proof.Machine.execKdrv d a b s
  | .pack d a => Sys2Proof.Machine.execPack d a s
  | .unpack d a => Sys2Proof.Machine.execUnpack d a s

end Sys2Proof.Machine
end

