-- ==== Sys2Proof/Machine/Turn.lean ====
section
/-! DEFINITION. The core's turn: a running command completes (60_exceptions.md R253, R254, 70_reset_and_hazards.md
R300). -/

namespace Sys2Proof.Machine

/-- The core runs the word in CMD: decode in the order of 30_encoding.md R89, then the command's rule. A word that
fails decode completes with its error and writes nothing (R86, R87). -/
def runCommand (s : State) : Result :=
  match decode s.cmd with
  | .ok i => exec i s
  | .error e => .next (s.fail (decodeFailure e))

/-- The core moves if a command is running; an idle core keeps every register (60_exceptions.md R268). -/
def coreTurn (s : State) : Result := if s.status.busy then runCommand s else .next s

/-- The state with these events still to come. -/
def State.withSchedule (s : State) (es : List Event) : State := { s with schedule := es }

/-- One event of the outside world, or the core's turn. -/
def runEvent (e : Event) (s : State) : Result :=
  match e with
  | .read a width => .next (s.busRead a width)
  | .write a width v => .next (s.busWrite a width v)
  | .hardReset => .next s.hardReset
  | .coreTurn => coreTurn s

/-- The next event happens; with none left to come, the core moves, so a running command always completes (R300,
log 5), and an idle machine stays as it is (log 20). -/
def nextEvent (s : State) : Result :=
  match s.schedule with
  | [] => coreTurn s
  | e :: es => runEvent e (s.withSchedule es)

end Sys2Proof.Machine
end

