-- ==== Sys2Proof/Machine/Step.lean ====
section
/-! DEFINITION. One step of the machine, and the state in which a given command word is the next thing it runs. -/

namespace Sys2Proof.Machine

/-- One step: one event of the total order of 20_memory.md R60. It always answers `next`. -/
def step (s : State) : Host.Outcome State Fault Refusal := nextEvent s

/-- The state in which the host's write of this command word has just been accepted (60_exceptions.md R255) and the core
moves next, so that the next step runs exactly it (log 15). Bits from `nbits` on are 0. -/
def State.withFetchWord (s : State) (nbits w : Nat) : State :=
  (s.accept (BitVec.ofNat 32 (w % 2 ^ nbits))).withSchedule (.coreTurn :: s.schedule)

end Sys2Proof.Machine
end

