-- ==== Sys2Proof/Machine/HostText.lean ====
section
/-! DEFINITION. The host's text primitives (45_host_text.md R221 to R223, R230 to R235). A text is a finite sequence of
octets (R221). Nothing here touches the block. -/

namespace Sys2Proof.Machine

/-- The failures of a host operation (R230, R231). -/
inductive HostError where
  /-- From HexParse (R222). -/
  | parseError
  /-- A public key text of a length other than 113 and 57 (R235). -/
  | invalidLength
  /-- A compressed public key, length 57 (R234). -/
  | unsupportedFormat
  /-- The block's code 4. -/
  | notInvertible
  /-- The block's code 5. -/
  | cannotDerive
  /-- The block's code 7. -/
  | operandRange
  /-- The block's code 1, 2, 3 or 6: "the driver issued a malformed command" (R231). No well-formed call ends so. -/
  | malformedCommand
  deriving DecidableEq, Repr

/-- The value of one hexadecimal octet: `0`-`9`, `a`-`f`, `A`-`F` (R222 item 2). -/
def hexDigitValue (b : Byte) : Option Nat :=
  let n := b.toNat
  if 0x30 ≤ n ∧ n ≤ 0x39 then some (n - 0x30)
  else if 0x61 ≤ n ∧ n ≤ 0x66 then some (n - 0x61 + 10)
  else if 0x41 ≤ n ∧ n ≤ 0x46 then some (n - 0x41 + 10)
  else none

/-- The base-16 value of the octets, most significant first, after the value of those before them. -/
def hexValueFrom (acc : Nat) : List Byte → Option Nat
  | [] => some acc
  | b :: bs =>
    match hexDigitValue b with
    | some d => hexValueFrom (acc * 16 + d) bs
    | none => none

/-- `HexParse` (R222). -/
def hexParse (text : List Byte) : Except HostError Value :=
  if text = [] then .error .parseError
  else
    match hexValueFrom 0 text with
    | some n => if n < 2 ^ 512 then .ok (BitVec.ofNat 512 n) else .error .parseError
    | none => .error .parseError

/-- The lowercase octet of a digit below 16 (R223). -/
def hexDigit (d : Nat) : Byte := BitVec.ofNat 8 (if d < 10 then 0x30 + d else 0x61 + (d - 10))

/-- The digits of `n` before those of `acc`, without leading zeros, at most the given number of them. -/
def hexDigitsFrom : Nat → Nat → List Byte → List Byte
  | 0, _, acc => acc
  | k + 1, n, acc =>
    if n < 16 then hexDigit n :: acc else hexDigitsFrom k (n / 16) (hexDigit (n % 16) :: acc)

/-- `MINHEX` = 64 (00_scope.md R7). -/
def minHex : Nat := 64

/-- `HexFormat` (R223): a 512-bit value has at most 128 digits, and `0` fills up to 64. -/
def hexFormat (v : Value) : List Byte := (hexDigitsFrom 128 v.toNat []).leftpad minHex 0x30

/-- `PUBLEN` = L/2 + 1 = 113 and `CPUBLEN` = L/4 + 1 = 57 (00_scope.md R7). -/
def publicLength : Nat := keyBits / 2 + 1
def compressedLength : Nat := keyBits / 4 + 1

end Sys2Proof.Machine
end

