-- ==== Sys2Proof/Machine/Driver.lean ====
section
/-! DEFINITION. The host driver (45_host_text.md R220, R224 to R229): the source's five Key operations, made of bus
accesses and commands. It waits for each command before its next access (70_reset_and_hazards.md R290), so it drives
the block access by access, with the core's turn after each command write. The slots it uses are arguments (log 17). -/

namespace Sys2Proof.Machine

/-- A host Key: the private scalar, 0 for public-only, and the public affine point (R220). -/
structure HostKey where
  s : Value
  x : Value
  y : Value
  deriving DecidableEq, Repr

/-- Two Keys are judged by their public points, not by the scalar's text (R233). -/
def HostKey.equivalent (k l : HostKey) : Bool := k.x == l.x && k.y == l.y

/-- The word the last BusRead answered. -/
def State.answer (s : State) : Word :=
  match s.response with
  | .data _ v => v
  | .none | .written _ | .busError _ => 0

/-- 16 BusWrites of a value's limbs, least significant first (20_memory.md R52). -/
def writeLimbs (addr : Fin 16 → Addr) (v : Value) (s : State) : State :=
  (List.finRange 16).foldl (fun s j => s.busWrite (addr j) 32 (limb v j)) s

/-- 16 BusReads of a value's limbs. -/
def readLimbs (addr : Fin 16 → Addr) (s : State) : Value × State :=
  (List.finRange 16).foldl
    (fun r j => (setLimb r.1 j (r.2.busRead (addr j) 32).answer, r.2.busRead (addr j) 32)) (0, s)

/-- The host writes W[i]. -/
def hostWriteW (i : WReg) (v : Value) (s : State) : State := writeLimbs (wAddr i) v s

/-- The host writes all three coordinates of PT[i]. -/
def hostWritePT (i : PReg) (p : Point) (s : State) : State :=
  writeLimbs (ptAddr i 2) p.z (writeLimbs (ptAddr i 1) p.y (writeLimbs (ptAddr i 0) p.x s))

/-- The host issues a command and waits for it: the CMD write, the core's turn, the STATUS read that finds BUSY = 0
(70_reset_and_hazards.md R290). The core's turn always answers `next` (`coreTurn_next`). -/
def issue (i : Instr) (s : State) : State :=
  match coreTurn (s.busWrite cmdAddr 32 (encode i)) with
  | .next t => t.busRead statusAddr 32
  | .fault _ | .refused _ => s

/-- The host error of a STATUS word (R231); none when ERR = 0. R231 gives codes 1, 2, 3 and 6 no name (log 17), and says
what CONFLICT = 1 means without an outcome: it is ignored here (log 23, DESIGN CHOICE). -/
def statusError (v : Word) : Option HostError :=
  if v.getLsbD 2 then
    match (v.extractLsb' 8 4).toNat with
    | 4 => some .notInvertible
    | 5 => some .cannotDerive
    | 7 => some .operandRange
    | _ => some .malformedCommand
  else none

/-- The host reads key slot k back: (W[k], PT[k].X, PT[k].Y). -/
def readSlot (k : Slot) (s : State) : HostKey × State :=
  let rs := readLimbs (wAddr (slotW k)) s
  let rx := readLimbs (ptAddr (slotPT k) 0) rs.2
  let ry := readLimbs (ptAddr (slotPT k) 1) rx.2
  ({ s := rs.1, x := rx.1, y := ry.1 }, ry.2)

/-- After a command: its error, or the slot it wrote. -/
def slotOutcome (k : Slot) (s : State) : Except HostError HostKey × State :=
  match statusError s.answer with
  | some e => (.error e, s)
  | none => (.ok (readSlot k s).1, (readSlot k s).2)

/-- `from_private_hex` in slot k (R224). The text length is not checked and the scalar is kept verbatim. -/
def fromPrivateHex (k : Slot) (text : List Byte) (s : State) : Except HostError HostKey × State :=
  match hexParse text with
  | .error e => (.error e, s)
  | .ok v => slotOutcome k (issue (.kpub k (slotW k)) (hostWriteW (slotW k) v s))

/-- `from_public_hex` in slot k: by length before any parsing (R225, R226, R234, R235). -/
def fromPublicHex (k : Slot) (text : List Byte) (s : State) : Except HostError HostKey × State :=
  if text.length = publicLength then
    match hexParse text with
    | .error e => (.error e, s)
    | .ok v => slotOutcome k (issue (.unpack k (slotW k)) (hostWriteW (slotW k) v s))
  else if text.length = compressedLength then (.error .unsupportedFormat, s)
  else (.error .invalidLength, s)

/-- `get_private_hex` (R227). -/
def getPrivateHex (key : HostKey) : List Byte := hexFormat key.s

/-- `get_public_hex` with PT[k] and W[j] (R228). -/
def getPublicHex (k : PReg) (j : WReg) (key : HostKey) (s : State) : Except HostError (List Byte) × State :=
  let s₁ := issue (.pack j k) (hostWritePT k (lift key.x key.y) s)
  match statusError s₁.answer with
  | some e => (.error e, s₁)
  | none => (.ok (hexFormat (readLimbs (wAddr j) s₁).1), (readLimbs (wAddr j) s₁).2)

/-- The host loads a Key into slot k (R220). -/
def loadKey (k : Slot) (key : HostKey) (s : State) : State :=
  hostWritePT (slotPT k) (lift key.x key.y) (hostWriteW (slotW k) key.s s)

/-- `derive(self, peer)` with self in slot i, peer in slot j and the result in slot r (R229). -/
def deriveKey (i j r : Slot) (self peer : HostKey) (s : State) : Except HostError HostKey × State :=
  slotOutcome r (issue (.kdrv r i j) (loadKey j peer (loadKey i self s)))

end Sys2Proof.Machine
end

