-- ==== Sys2Proof/Safety.lean ====
section
/-! DEFINITION. The terms claims are made in: how a command ends, what it leaves unchanged, the opcode map as the spec
tabulates it, the invariant of the machine, and the end of a run with its observation (70_reset_and_hazards.md
R296). -/

namespace Sys2Proof.Machine

/-! ## How a command ends -/

/-- Nothing of the machine differs between the two states but STATUS, FLAGS, and the named registers with their
marks. -/
structure UnchangedExcept (s t : State) (wd : Option WReg) (pd : Option PReg) : Prop where
  w : ∀ k : WReg, wd ≠ some k → t.w[k] = s.w[k]
  wLimbs : ∀ k : WReg, wd ≠ some k → t.wLimbs[k] = s.wLimbs[k]
  pt : ∀ k : PReg, pd ≠ some k → t.pt[k] = s.pt[k]
  ptLimbs : ∀ k : PReg, pd ≠ some k → t.ptLimbs[k] = s.ptLimbs[k]
  cmd : t.cmd = s.cmd
  uninitFault : t.uninitFault = s.uninitFault
  busFault : t.busFault = s.busFault
  schedule : t.schedule = s.schedule
  response : t.response = s.response
  draws : t.draws = s.draws

/-- STATUS after completion without error (60_exceptions.md R253): BUSY 0, DONE 1, the rest as before. -/
structure CompletedOk (s t : State) : Prop where
  busy : t.status.busy = false
  done : t.status.done = true
  err : t.status.err = s.status.err
  conflict : t.status.conflict = s.status.conflict
  errcode : t.status.errcode = s.status.errcode

/-- STATUS after completion with an error (R254): BUSY 0, DONE 1, ERR 1, ERRCODE the code, CONFLICT as before. -/
structure CompletedErr (s t : State) (e : CmdError) : Prop where
  busy : t.status.busy = false
  done : t.status.done = true
  err : t.status.err = true
  conflict : t.status.conflict = s.status.conflict
  errcode : t.status.errcode = some e

/-- The command completes, W[d] becomes `v`, and nothing else changes but its mark and STATUS. -/
def WritesW (i : Instr) (s : State) (d : WReg) (v : Value) : Prop :=
  ∃ t, exec i s = .next t ∧ t.w[d] = v ∧ t.wMarked d = true ∧ CompletedOk s t ∧ t.flags = s.flags ∧
    UnchangedExcept s t (some d) none

/-- The command completes, PT[d] becomes `p`, and nothing else changes but its mark and STATUS. -/
def WritesPT (i : Instr) (s : State) (d : PReg) (p : Point) : Prop :=
  ∃ t, exec i s = .next t ∧ t.pt[d] = p ∧ t.ptMarked d = true ∧ CompletedOk s t ∧ t.flags = s.flags ∧
    UnchangedExcept s t none (some d)

/-- The command completes, key slot d becomes (v, p), and nothing else changes but its marks and STATUS. -/
def WritesSlot (i : Instr) (s : State) (d : Slot) (v : Value) (p : Point) : Prop :=
  ∃ t, exec i s = .next t ∧ t.w[slotW d] = v ∧ t.wMarked (slotW d) = true ∧ t.pt[slotPT d] = p ∧
    t.ptMarked (slotPT d) = true ∧ CompletedOk s t ∧ t.flags = s.flags ∧
    UnchangedExcept s t (some (slotW d)) (some (slotPT d))

/-- The command completes, FLAGS becomes `f`, and nothing else changes but STATUS. -/
def WritesFlags (i : Instr) (s : State) (f : Flags) : Prop :=
  ∃ t, exec i s = .next t ∧ t.flags = f ∧ CompletedOk s t ∧ UnchangedExcept s t none none

/-- The command completes with this error and nothing changes but STATUS. -/
def FailsWith (i : Instr) (s : State) (e : CmdError) : Prop :=
  ∃ t, exec i s = .next t ∧ CompletedErr s t e ∧ t.flags = s.flags ∧ UnchangedExcept s t none none

/-! ## Destinations -/

/-- The W register a command names as its destination. -/
def destW : Instr → Option WReg
  | .add d _ _ | .sub d _ _ | .mul d _ _ | .div d _ _ | .rem d _ _ => some d
  | .and d _ _ | .or d _ _ | .xor d _ _ | .shl d _ _ | .shr d _ _ => some d
  | .shli d _ _ | .shri d _ _ | .cvt64 d _ | .invmod d _ _ | .ldc d _ | .pack d _ => some d
  | .kpub d _ | .kdrv d _ _ | .unpack d _ => some (slotW d)
  | .cmp _ _ | .pldg _ | .pneg _ _ | .padd _ _ _ | .pdbl _ _ | .paff _ _ | .smul _ _ _ => none

/-- The PT register a command names as its destination. -/
def destPT : Instr → Option PReg
  | .pldg d | .pneg d _ | .padd d _ _ | .pdbl d _ | .paff d _ | .smul d _ _ => some d
  | .kpub d _ | .kdrv d _ _ | .unpack d _ => some (slotPT d)
  | .add _ _ _ | .sub _ _ _ | .mul _ _ _ | .div _ _ _ | .rem _ _ _ => none
  | .and _ _ _ | .or _ _ _ | .xor _ _ _ | .shl _ _ _ | .shr _ _ _ => none
  | .shli _ _ _ | .shri _ _ _ | .cmp _ _ | .cvt64 _ _ | .invmod _ _ _ | .ldc _ _ | .pack _ _ => none

/-- CMP, the only command that writes FLAGS (10_state.md R22). -/
def isCmp : Instr → Bool
  | .cmp _ _ => true
  | .add _ _ _ | .sub _ _ _ | .mul _ _ _ | .div _ _ _ | .rem _ _ _ => false
  | .and _ _ _ | .or _ _ _ | .xor _ _ _ | .shl _ _ _ | .shr _ _ _ => false
  | .shli _ _ _ | .shri _ _ _ | .cvt64 _ _ | .invmod _ _ _ | .ldc _ _ => false
  | .pldg _ | .pneg _ _ | .padd _ _ _ | .pdbl _ _ | .paff _ _ | .smul _ _ _ => false
  | .kpub _ _ | .kdrv _ _ _ | .pack _ _ | .unpack _ _ => false

/-- The byte address lies in the 64 bytes of W[d] (20_memory.md R52). -/
def inWWindow (d : WReg) (a : Addr) : Bool := 0x1000 + 0x40 * d.val ≤ a.toNat && a.toNat < 0x1000 + 0x40 * d.val + 0x40

/-- The byte address lies in the 192 bytes of PT[d] (R52). -/
def inPTWindow (d : PReg) (a : Addr) : Bool := 0x2000 + 0xC0 * d.val ≤ a.toNat && a.toNat < 0x2000 + 0xC0 * d.val + 0xC0

/-- The byte addresses a command may change: its destinations, STATUS, and FLAGS for CMP. -/
def commandMayChange (i : Instr) (a : Addr) : Bool :=
  (destW i).any (inWWindow · a) || (destPT i).any (inPTWindow · a) ||
    (0x0008 ≤ a.toNat && a.toNat < 0x000C) || (isCmp i && 0x000C ≤ a.toNat && a.toNat < 0x0010)

/-! ## Errors (60_exceptions.md R251) -/

/-- The errors each command can raise once it has decoded. -/
def possibleErrors : Instr → List CmdError
  | .div _ _ _ | .rem _ _ _ => [.divByZero]
  | .invmod _ _ _ => [.divByZero, .notInvertible]
  | .cvt64 _ _ => [.conversionOverflow]
  | .pneg _ _ | .pdbl _ _ | .smul _ _ _ | .padd _ _ _ => [.operandRange]
  | .paff _ _ => [.operandRange, .notInvertible]
  | .kdrv _ _ _ => [.cannotDerive, .operandRange, .notInvertible]
  | .kpub _ _ => [.notInvertible]
  | .add _ _ _ | .sub _ _ _ | .mul _ _ _ | .and _ _ _ | .or _ _ _ | .xor _ _ _ => []
  | .shl _ _ _ | .shr _ _ _ | .shli _ _ _ | .shri _ _ _ | .cmp _ _ => []
  | .ldc _ _ | .pldg _ | .pack _ _ | .unpack _ _ => []

/-! ## Numbers the point and scalar statements are made in -/

/-- The field prime of 41_constants.md R141, as a number. -/
def fieldPrime : Nat := 2 ^ 224 - 2 ^ 96 + 1

/-- Every coordinate is below the field prime (42_point.md R151). -/
def Point.InField (p : Point) : Prop := p.x.toNat < fieldPrime ∧ p.y.toNat < fieldPrime ∧ p.z.toNat < fieldPrime

/-- The number that digits stand for, least significant first: the sum of d[i]·2^i (43_scalar.md R187). -/
def digitSum : List Int → Int
  | [] => 0
  | d :: ds => d + 2 * digitSum ds

/-! ## Events -/

/-- A host access that does not write CTRL: it leaves a running command running (20_memory.md R59). -/
def Event.keepsRunning : Event → Bool
  | .read _ _ => true
  | .write a _ _ => locate a != .ctrl
  | .hardReset => false
  | .coreTurn => false

/-! ## The opcode map as a table (30_encoding.md R83, R85, R87) -/

/-- The two formats. -/
inductive Format where
  | r
  | i
  deriving DecidableEq, Repr

/-- The kind of an operand field. -/
inductive FieldKind where
  | w
  | p
  | k
  | unused
  deriving DecidableEq, Repr

/-- One row of R85: its OP, its format and the kinds of D, A and B (B is reserved in the I-format). -/
structure OpcodeRow where
  op : Nat
  format : Format
  d : FieldKind
  a : FieldKind
  b : FieldKind
  deriving DecidableEq, Repr

/-- R85, row by row. -/
def opcodeMap : List OpcodeRow :=
  [⟨0x01, .r, .w, .w, .w⟩, ⟨0x02, .r, .w, .w, .w⟩, ⟨0x03, .r, .w, .w, .w⟩, ⟨0x04, .r, .w, .w, .w⟩,
   ⟨0x05, .r, .w, .w, .w⟩, ⟨0x06, .r, .w, .w, .w⟩, ⟨0x07, .r, .w, .w, .w⟩, ⟨0x08, .r, .w, .w, .w⟩,
   ⟨0x09, .r, .w, .w, .w⟩, ⟨0x0A, .r, .w, .w, .w⟩, ⟨0x0B, .i, .w, .w, .unused⟩, ⟨0x0C, .i, .w, .w, .unused⟩,
   ⟨0x0D, .r, .unused, .w, .w⟩, ⟨0x0E, .r, .w, .w, .unused⟩, ⟨0x0F, .r, .w, .w, .w⟩] ++
  [⟨0x10, .i, .w, .unused, .unused⟩, ⟨0x11, .r, .p, .unused, .unused⟩, ⟨0x20, .r, .p, .p, .unused⟩,
   ⟨0x21, .r, .p, .p, .p⟩, ⟨0x22, .r, .p, .p, .unused⟩, ⟨0x23, .r, .p, .p, .unused⟩, ⟨0x30, .r, .p, .p, .w⟩,
   ⟨0x40, .r, .k, .w, .unused⟩, ⟨0x41, .r, .k, .k, .k⟩, ⟨0x42, .r, .w, .p, .unused⟩, ⟨0x43, .r, .k, .w, .unused⟩]

/-- A field value is legal for its kind (R83). -/
def FieldKind.legal (kind : FieldKind) (field : Nat) : Bool :=
  match kind with
  | .w => true
  | .p | .k => field < 8
  | .unused => field == 0

/-- One of the five conditions of R87 holds for this word in this row. -/
def OpcodeRow.illegalOperand (row : OpcodeRow) (c : Word) : Bool :=
  (row.format == .r && c.extractLsb' 20 12 != 0) ||
  (row.format == .i && c.extractLsb' 16 4 != 0) ||
  !row.d.legal (c.extractLsb' 8 4).toNat || !row.a.legal (c.extractLsb' 12 4).toNat ||
  !row.b.legal (c.extractLsb' 16 4).toNat ||
  (row.op == 0x10 && 5 ≤ (c.extractLsb' 20 12).toNat)

/-- Every word with this OP whose D, A and B fields are bad for its row is ILLEGAL_OPERAND (R87). -/
def OperandsIllegal (op : Nat) (bad : Nat → Nat → Nat → Prop) : Prop :=
  ∀ c : Word, c.toNat % 256 = op → bad (c.toNat / 2 ^ 8 % 16) (c.toNat / 2 ^ 12 % 16) (c.toNat / 2 ^ 16 % 16) →
    decode c = .error .illegalOperand

/-! ## The invariant -/

/-- ERRCODE is nonzero exactly when ERR = 1, and a running command has neither DONE nor ERR set (10_state.md R24,
60_exceptions.md R255). -/
def Status.consistent (st : Status) : Prop :=
  (st.err = st.errcode.isSome) ∧ (st.busy = true → st.done = false ∧ st.err = false)

/-- At most one of EQ, LT and GT is set (10_state.md R22). -/
def Flags.atMostOne (f : Flags) : Prop :=
  (f.eq && f.lt) = false ∧ (f.eq && f.gt) = false ∧ (f.lt && f.gt) = false

/-- As long as no fault is recorded, a running command reads initialised registers only
(70_reset_and_hazards.md R282, R295). -/
def State.runsInitialised (s : State) : Prop :=
  s.uninitFault = false → s.status.busy = true → s.readsUninitialised s.cmd = false

/-- What every step keeps. -/
structure State.Inv (s : State) : Prop where
  status : s.status.consistent
  flags : s.flags.atMostOne
  initialised : s.runsInitialised

/-! ## The end of a run (70_reset_and_hazards.md R296) -/

/-- No model fault is recorded. -/
def State.faultFree (s : State) : Bool := !s.uninitFault && !s.busFault

/-- The host has made its last access, a STATUS read that returned BUSY = 0, and no command is in progress. -/
def State.runEnded (s : State) : Bool :=
  s.schedule == [] && !s.status.busy &&
    match s.response with
    | .data a v => a == statusAddr && !v.getLsbD 0
    | .none | .written _ | .busError _ => false

/-- What a run shows: W, PT, FLAGS and STATUS. An uninitialised register shows nothing. -/
structure Observation where
  w : Vector (Option Value) 16
  pt : Vector (Option Point) 8
  flags : Word
  status : Word
  deriving DecidableEq, Repr

/-- The observation of a run that has ended here; a run with a recorded fault has none. -/
def State.observation (s : State) : Option Observation :=
  if s.runEnded && s.faultFree then
    some
      { w := Vector.ofFn fun i : Fin 16 => if s.wMarked i then some s.w[i] else none
        pt := Vector.ofFn fun i : Fin 8 => if s.ptMarked i then some s.pt[i] else none
        flags := s.flags.word
        status := s.status.word }
  else none

/-- A driver that keeps the hazard rule never sees CONFLICT (R290, R292). -/
def State.hazardFree (s : State) : Bool := !s.status.conflict

end Sys2Proof.Machine
end

