-- ==== Sys2Proof/Certificates/Slice0/Obligations.lean ====
section
/-! DEFINITION. The statements of the model, for the provers. Each docstring names the rules of spec/ it formalises. -/

open Sys2Proof Sys2Proof.Machine

/-! ## Encoding (30_encoding.md) -/

/-- R81, R82, R85: decoding the encoding of any well-formed command gives it back, every operand at every value. -/
def Obligations.DecodeEncodeRoundTrip : Prop :=
  ∀ i : Instr, i.wellFormed = true → decode (encode i) = .ok i

/-- R88: a word decodes to one command at most, which is well formed, and it is that command's encoding, bit for bit. -/
def Obligations.DecodedWordIsItsEncoding : Prop :=
  ∀ (c : Word) (i : Instr), decode c = .ok i → i.wellFormed = true ∧ encode i = c

/-- R86: exactly the OP values R86 lists are illegal, and such a command completes with error code 1 and writes
nothing, at the core's turn, whether or not events are still to come. -/
def Obligations.IllegalOpcodeCompletesWithCode1 : Prop :=
  ∀ c : Word,
    let op := c.toNat % 256
    (decode c = .error .illegalOpcode ↔
      op = 0 ∨ (0x12 ≤ op ∧ op ≤ 0x1F) ∨ (0x24 ≤ op ∧ op ≤ 0x2F) ∨ (0x31 ≤ op ∧ op ≤ 0x3F) ∨ 0x44 ≤ op) ∧
    ∀ s u : State, s.status.busy = true → s.cmd = c → decode c = .error .illegalOpcode →
      (s.schedule = [] ∧ u = s ∨ ∃ es, s.schedule = .coreTurn :: es ∧ u = s.withSchedule es) →
      ∃ t, step s = .next t ∧ CompletedErr u t .illegalOpcode ∧ CmdError.illegalOpcode.code = 1 ∧ t.flags = u.flags ∧
        UnchangedExcept u t none none

/-- R87: a word with a legal OP is illegal exactly when one of the five conditions of R87 holds for its row of the
opcode map, and then it completes with error code 2 and writes nothing, at the core's turn, whether or not events are
still to come. -/
def Obligations.IllegalOperandCompletesWithCode2 : Prop :=
  ∀ (c : Word) (row : OpcodeRow), row ∈ opcodeMap → row.op = c.toNat % 256 →
    (decode c = .error .illegalOperand ↔ row.illegalOperand c = true) ∧
    ∀ s u : State, s.status.busy = true → s.cmd = c → decode c = .error .illegalOperand →
      (s.schedule = [] ∧ u = s ∨ ∃ es, s.schedule = .coreTurn :: es ∧ u = s.withSchedule es) →
      ∃ t, step s = .next t ∧ CompletedErr u t .illegalOperand ∧ CmdError.illegalOperand.code = 2 ∧
        t.flags = u.flags ∧ UnchangedExcept u t none none

/-- R85: command words written out from the fields decode to the command they stand for. -/
def Obligations.SampleWordsDecode : Prop :=
  decode 0x00032101 = .ok (.add 1 2 3) ∧ decode 0x0E00540B = .ok (.shli 4 5 224) ∧
  decode 0x0002100D = .ok (.cmp 1 2) ∧ decode 0x0000210E = .ok (.cvt64 1 2) ∧
  decode 0x00400F10 = .ok (.ldc 15 4) ∧ decode 0x00000711 = .ok (.pldg 7) ∧
  decode 0x00010721 = .ok (.padd 7 0 1) ∧ decode 0x00000723 = .ok (.paff 7 0) ∧
  decode 0x000F0130 = .ok (.smul 1 0 15) ∧ decode 0x00032641 = .ok (.kdrv 6 2 3) ∧
  decode 0x00000842 = .ok (.pack 8 0) ∧ decode 0x00009243 = .ok (.unpack 2 9)

/-! ## The step and the life of a command (20_memory.md, 60_exceptions.md, 70_reset_and_hazards.md) -/

/-- R89 step 3, R253: when it is the core's turn and the word in CMD decodes to a well-formed command, the step is
`exec` of that command; with events still to come, the core's turn is taken from the head of the list. R53, R60: when
a host access is next, the step is that BusRead or BusWrite, of whatever address and width, and the access is taken
from the list. R268: an idle core's turn changes nothing. That the core moves when no event is to come is the model's
choice (log 5 and log 20, DESIGN CHOICE). -/
def Obligations.StepRunsDecodedCommand : Prop :=
  ∀ s : State,
    (∀ i : Instr, s.status.busy = true → decode s.cmd = .ok i → i.wellFormed = true →
      (s.schedule = [] → step s = exec i s) ∧
      (∀ es, s.schedule = .coreTurn :: es → step s = exec i (s.withSchedule es))) ∧
    (∀ a width es, s.schedule = .read a width :: es → step s = .next ((s.withSchedule es).busRead a width)) ∧
    (∀ a width v es, s.schedule = .write a width v :: es → step s = .next ((s.withSchedule es).busWrite a width v)) ∧
    (s.status.busy = false →
      (s.schedule = [] → step s = .next s) ∧
      (∀ es, s.schedule = .coreTurn :: es → step s = .next (s.withSchedule es)))

/-- R300, R8: whatever the command, the operands and the state, the completion step answers a next state in which
the command has completed. For a command with initialised sources that is the spec's. That a command with an
uninitialised source completes too is the model's choice (log 2, DESIGN CHOICE), and so is the completion of the
ill-formed LDC term, which no word decodes to (log 19, DESIGN CHOICE). -/
def Obligations.EveryCommandCompletes : Prop :=
  ∀ (i : Instr) (s : State), ∃ t, exec i s = .next t ∧ t.status.busy = false ∧ t.status.done = true

/-- R255, R61: a 32-bit write of v to CMD while BUSY = 0 sets CMD and BUSY, clears DONE, ERR and ERRCODE, keeps
CONFLICT, and changes no register and no FLAGS bit. -/
def Obligations.AcceptanceStartsTheCommand : Prop :=
  ∀ (s : State) (v : Word) (es : List Event), s.status.busy = false → s.schedule = .write cmdAddr 32 v :: es →
    ∃ t, step s = .next t ∧ t.cmd = v ∧ t.status.busy = true ∧ t.status.done = false ∧ t.status.err = false ∧
      t.status.errcode = none ∧ t.status.conflict = s.status.conflict ∧ t.w = s.w ∧ t.pt = s.pt ∧
      t.flags = s.flags ∧ t.wLimbs = s.wLimbs ∧ t.ptLimbs = s.ptLimbs ∧ t.busFault = s.busFault ∧ t.schedule = es ∧
      t.response = .written cmdAddr

/-- R59 (writes), R256: while BUSY = 1 a write to CMD, to any limb of W or of PT is ignored and sets CONFLICT, and
nothing else of the block changes. -/
def Obligations.WritesWhileBusyAreDropped : Prop :=
  ∀ (s : State) (a : Addr) (v : Word), s.status.busy = true → accessOk a 32 = true →
    (a = cmdAddr ∨ (0x1000 ≤ a.toNat ∧ a.toNat < 0x1400) ∨ (0x2000 ≤ a.toNat ∧ a.toNat < 0x2600)) →
    s.busWrite a 32 v =
      { s with status := { s.status with conflict := true }, response := .written a }

/-- R61: a step from a busy state after which the command still runs leaves W, PT, FLAGS, CMD and every mark as they
were, so the operands found at completion are those of the acceptance. -/
def Obligations.RunningCommandKeepsItsOperands : Prop :=
  ∀ s t : State, s.status.busy = true → step s = .next t → t.status.busy = true →
    t.w = s.w ∧ t.pt = s.pt ∧ t.flags = s.flags ∧ t.cmd = s.cmd ∧ t.wLimbs = s.wLimbs ∧ t.ptLimbs = s.ptLimbs

/-- R24, R281, R292: CONFLICT appears only where the next event is a 32-bit write to CMD, a W limb or a PT limb while
BUSY = 1; and BUSY goes from 1 to 0 only at the core's turn, which sets DONE, or by a reset, which zeroes STATUS. -/
def Obligations.ConflictAndBusyHaveTheirCauses : Prop :=
  ∀ s t : State, step s = .next t →
    (s.status.conflict = false → t.status.conflict = true →
      s.status.busy = true ∧ ∃ a v es, s.schedule = .write a 32 v :: es ∧
        (locate a = .cmd ∨ (∃ i j, locate a = .w i j) ∨ ∃ i c j, locate a = .pt i c j)) ∧
    (s.status.busy = true → t.status.busy = false →
      ((s.schedule = [] ∨ ∃ es, s.schedule = .coreTurn :: es) ∧ t.status.done = true) ∨
      (t.status.word = 0 ∧ ∃ es, s.schedule = .hardReset :: es ∨
        ∃ v, s.schedule = .write ctrlAddr 32 v :: es ∧ v.getLsbD 0 = true))

/-- R300, R61 (every LATENCY): take an idle block and a CMD write whose word decodes to a command with initialised
sources. However many host accesses other than CTRL writes fall before the core's turn, the command ends with the
same W, PT, FLAGS, CMD, marks and error as when the core moves at once. -/
def Obligations.LatencyDoesNotChangeTheResult : Prop :=
  ∀ (s : State) (v : Word) (i : Instr) (es : List Event),
    s.status.busy = false → decode v = .ok i → s.sourcesMarked i = true →
    (∀ e ∈ es, e.keepsRunning = true) →
    ∃ t u : State, Host.Core.run core 2 (s.withSchedule [.write cmdAddr 32 v]) = .next t ∧
      Host.Core.run core (es.length + 2) (s.withSchedule (.write cmdAddr 32 v :: es)) = .next u ∧
      u.w = t.w ∧ u.pt = t.pt ∧ u.flags = t.flags ∧ u.cmd = t.cmd ∧ u.wLimbs = t.wLimbs ∧ u.ptLimbs = t.ptLimbs ∧
      u.status.busy = false ∧ t.status.busy = false ∧ u.status.err = t.status.err ∧
      u.status.errcode = t.status.errcode

/-- R254: a command that ends with an error changes nothing but STATUS: W, PT, FLAGS, CMD and every mark are exact. -/
def Obligations.ErrorsArePrecise : Prop :=
  ∀ (i : Instr) (s t : State), s.status.err = false → exec i s = .next t → t.status.err = true →
    ∃ e, CompletedErr s t e ∧ t.flags = s.flags ∧ UnchangedExcept s t none none

/-- R251: no command raises an error that is not in its row of R251, and the decode errors never come from `exec`
of a well-formed command. -/
def Obligations.ErrorsAreThoseOfTheTable : Prop :=
  ∀ (i : Instr) (s t : State) (e : CmdError), i.wellFormed = true → s.status.errcode = none → exec i s = .next t →
    t.status.errcode = some e → e ∈ possibleErrors i

/-- R20, R22, R27: a command changes no W register, PT register or mark but its named destinations, FLAGS only if it
is CMP, and nothing else but STATUS. -/
def Obligations.CommandsChangeOnlyTheirDestinations : Prop :=
  ∀ (i : Instr) (s t : State), exec i s = .next t →
    UnchangedExcept s t (destW i) (destPT i) ∧ (isCmp i = false → t.flags = s.flags) ∧
      t.status.conflict = s.status.conflict

/-- R52, R54: seen as bytes of the register window, a command changes only the bytes of its destination registers, of
STATUS and, for CMP, of FLAGS. -/
def Obligations.CommandsChangeOnlyTheirWindowBytes : Prop :=
  ∀ (i : Instr) (s t : State) (a : Addr), exec i s = .next t → commandMayChange i a = false →
    t.windowByte a = s.windowByte a

/-- R22: FLAGS changes in a step only where the core's turn completes a CMP, or where the next event is a hard reset or
a 32-bit CTRL write with bit 0 = 1, which sets it to 0. -/
def Obligations.OnlyCmpOrResetChangesFlags : Prop :=
  ∀ s t : State, step s = .next t → t.flags ≠ s.flags →
    ((s.schedule = [] ∨ ∃ es, s.schedule = .coreTurn :: es) ∧ s.status.busy = true ∧ t.status.busy = false ∧
      t.status.done = true ∧ ∃ a b, decode s.cmd = .ok (.cmp a b)) ∨
    (t.flags = Flags.zero ∧
      ((∃ es, s.schedule = .hardReset :: es) ∨
        ∃ v es, s.schedule = .write ctrlAddr 32 v :: es ∧ v.getLsbD 0 = true))

/-- R61, R293: what a command does to its destination, to FLAGS and to STATUS depends only on its initialised
sources: two states that agree on them and on STATUS end alike, whatever the other registers, the marks and the free
values are. -/
def Obligations.ResultsDependOnlyOnSources : Prop :=
  ∀ (i : Instr) (s s' t t' : State), s.status = s'.status →
    s.sourcesMarked i = true → s'.sourcesMarked i = true →
    (∀ r : WReg, Source.w r ∈ sources i s → s.w[r] = s'.w[r]) →
    (∀ r : PReg, Source.pt r ∈ sources i s → s.pt[r] = s'.pt[r]) →
    exec i s = .next t → exec i s' = .next t' →
    t.status = t'.status ∧
      (t.status.err = false →
        (∀ d, destW i = some d → t.w[d] = t'.w[d]) ∧ (∀ d, destPT i = some d → t.pt[d] = t'.pt[d]) ∧
        (isCmp i = true → t.flags = t'.flags))

/-- The invariant holds at reset. -/
def Obligations.InvariantAtReset : Prop := State.reset.Inv

/-- R22, R24, R255, R282: every step keeps the invariant: STATUS is consistent, at most one flag is set, and while no
fault is recorded a running command reads initialised registers only. -/
def Obligations.StepKeepsInvariant : Prop :=
  ∀ s t : State, s.Inv → step s = .next t → t.Inv

/-- R282, R295, R296: an uninitialised source is recorded at the command's acceptance, and only by the acceptance of a
word that decodes to a command with such a source; and no step ever clears a recorded fault. That the record is made
at acceptance and outlives every reset is the model's reading (log 3, DEDUCED), and so is which registers count as
read (log 21, DEDUCED). -/
def Obligations.UninitialisedSourceIsRecordedForGood : Prop :=
  (∀ (s : State) (v : Word) (es : List Event), s.status.busy = false → s.schedule = .write cmdAddr 32 v :: es →
    ∃ t, step s = .next t ∧
      (∀ i r, decode v = .ok i → r ∈ sources i s → s.marked r = false → t.uninitFault = true) ∧
      ((∃ e, decode v = .error e) → t.uninitFault = s.uninitFault) ∧
      (∀ i, decode v = .ok i → (∀ r ∈ sources i s, s.marked r = true) → t.uninitFault = s.uninitFault)) ∧
  (∀ s t : State, step s = .next t →
    (s.uninitFault = true → t.uninitFault = true) ∧ (s.busFault = true → t.busFault = true) ∧
    (s.uninitFault = false → t.uninitFault = true →
      s.status.busy = false ∧ ∃ v es i r, s.schedule = .write cmdAddr 32 v :: es ∧ decode v = .ok i ∧
        r ∈ sources i s ∧ s.marked r = false))

/-- R283 and the table of 10_state.md section 7: right after reset STATUS, FLAGS and CMD are 0, no register is
initialised, no fault is recorded, and the block is idle. -/
def Obligations.StateAfterReset : Prop :=
  State.reset.status.word = 0 ∧ State.reset.flags.word = 0 ∧ State.reset.cmd = 0 ∧
    State.reset.status.busy = false ∧ (∀ i, State.reset.wMarked i = false) ∧ (∀ i, State.reset.ptMarked i = false) ∧
    State.reset.faultFree = true

/-- R280: a hard reset abandons the running command, sets STATUS, FLAGS and CMD to 0 and clears every mark; ID and the
ROM hold their constants. -/
def Obligations.HardResetEffect : Prop :=
  ∀ (s : State) (es : List Event), s.schedule = .hardReset :: es →
    ∃ t, step s = .next t ∧ t.status.word = 0 ∧ t.flags.word = 0 ∧ t.cmd = 0 ∧ (∀ i, t.wMarked i = false) ∧
      (∀ i, t.ptMarked i = false) ∧ t.stored 0x0000 = 0x50323234 ∧
      (∀ r j, t.stored (romAddr r j) = s.stored (romAddr r j)) ∧ t.schedule = es

/-- R26, R281: a write to CTRL with bit 0 = 1 resets STATUS, FLAGS and CMD whether or not BUSY = 1, keeps W, PT and
their marks; with bit 0 = 0 it has no effect, whatever the other bits are; and CTRL reads 0. -/
def Obligations.SoftResetEffect : Prop :=
  ∀ (s : State) (v : Word),
    (v.getLsbD 0 = true →
      let t := s.busWrite ctrlAddr 32 v
      t.status.word = 0 ∧ t.flags.word = 0 ∧ t.cmd = 0 ∧ t.w = s.w ∧ t.pt = s.pt ∧ t.wLimbs = s.wLimbs ∧
        t.ptLimbs = s.ptLimbs ∧ t.uninitFault = s.uninitFault ∧ t.busFault = s.busFault ∧ t.schedule = s.schedule) ∧
    (v.getLsbD 0 = false → s.busWrite ctrlAddr 32 v = { s with response := .written ctrlAddr }) ∧
    s.busRead ctrlAddr 32 = { s with response := .data ctrlAddr 0 }

/-! ## STATUS, FLAGS and the register window (10_state.md, 20_memory.md) -/

/-- R24, R250, R257: the fields of the STATUS word, its reserved bits 0, and the code of each error; and a write of v to STATUS, whether or not BUSY = 1,
clears exactly the RW1C bits written with 1, ERRCODE together with ERR, and changes nothing else. -/
def Obligations.StatusRegister : Prop :=
  (∀ st : Status,
    st.word.getLsbD 0 = st.busy ∧ st.word.getLsbD 1 = st.done ∧ st.word.getLsbD 2 = st.err ∧
    st.word.getLsbD 3 = st.conflict ∧ st.word.extractLsb' 4 4 = 0 ∧ st.word.extractLsb' 8 4 = st.errcodeField ∧
    st.word.extractLsb' 12 20 = 0 ∧
    (st.errcode = none → st.errcodeField = 0) ∧ (st.errcode = some .illegalOpcode → st.errcodeField = 1) ∧
    (st.errcode = some .illegalOperand → st.errcodeField = 2) ∧ (st.errcode = some .divByZero → st.errcodeField = 3) ∧
    (st.errcode = some .notInvertible → st.errcodeField = 4) ∧
    (st.errcode = some .cannotDerive → st.errcodeField = 5) ∧
    (st.errcode = some .conversionOverflow → st.errcodeField = 6) ∧
    (st.errcode = some .operandRange → st.errcodeField = 7)) ∧
  (∀ (s : State) (v : Word),
    let t := s.busWrite statusAddr 32 v
    t.status.busy = s.status.busy ∧
    (t.status.done = true ↔ s.status.done = true ∧ v.getLsbD 1 = false) ∧
    (t.status.err = true ↔ s.status.err = true ∧ v.getLsbD 2 = false) ∧
    (t.status.conflict = true ↔ s.status.conflict = true ∧ v.getLsbD 3 = false) ∧
    (v.getLsbD 2 = true → t.status.errcode = none) ∧
    (v.getLsbD 2 = false → t.status.errcode = s.status.errcode) ∧
    t.flags = s.flags ∧ UnchangedExcept { s with response := .written statusAddr } t none none)

/-- R52, R54: where each limb stands in the window and which bits it holds; and a host that views the window of W[i] as
64 bytes sees its value in little-endian byte order. -/
def Obligations.WindowLayoutIsLittleEndian : Prop :=
  ∀ s : State,
    (∀ j : Fin 16,
      (∀ i : WReg, s.stored (BitVec.ofNat 16 (0x1000 + 0x40 * i.val + 4 * j.val)) = s.w[i].extractLsb' (32 * j.val) 32) ∧
      (∀ i : PReg,
        s.stored (BitVec.ofNat 16 (0x2000 + 0xC0 * i.val + 4 * j.val)) = s.pt[i].x.extractLsb' (32 * j.val) 32 ∧
        s.stored (BitVec.ofNat 16 (0x2000 + 0xC0 * i.val + 0x40 + 4 * j.val)) =
          s.pt[i].y.extractLsb' (32 * j.val) 32 ∧
        s.stored (BitVec.ofNat 16 (0x2000 + 0xC0 * i.val + 0x80 + 4 * j.val)) =
          s.pt[i].z.extractLsb' (32 * j.val) 32) ∧
      (∀ r : Fin 5,
        s.stored (BitVec.ofNat 16 (0x3000 + 0x40 * r.val + 4 * j.val)) = rom[r].extractLsb' (32 * j.val) 32)) ∧
    (∀ (i : WReg) (m : Nat), m < 64 →
      s.windowByte (BitVec.ofNat 16 (0x1000 + 0x40 * i.val + m)) = s.w[i].extractLsb' (8 * m) 8)

/-- R52 (writes), R53, R282: a 32-bit write to limb j of W[i], or to limb j of coordinate c of PT[i], while BUSY = 0
replaces those 32 bits, leaves every other limb, coordinate and register unchanged, and a read of it after that
returns what was written once the register is initialised. It counts that limb as written and no other; a register is
initialised only when all its limbs count as written, and a hard reset starts the count from none. -/
def Obligations.LimbWriteReplacesItsBits : Prop :=
  ∀ (s : State) (j : Fin 16) (v : Word), s.status.busy = false →
    (∀ i : WReg,
      let t := s.busWrite (wAddr i j) 32 v
      (∀ k : Fin 16, limb t.w[i] k = if k = j then v else limb s.w[i] k) ∧
      (∀ k : WReg, k ≠ i → t.w[k] = s.w[k] ∧ t.wLimbs[k] = s.wLimbs[k]) ∧
      (∀ k : Fin 16, t.wLimbs[i].getLsbD k.val = (decide (k = j) || s.wLimbs[i].getLsbD k.val)) ∧
      (t.wMarked i = true ↔ ∀ k : Fin 16, t.wLimbs[i].getLsbD k.val = true) ∧
      t.pt = s.pt ∧ t.ptLimbs = s.ptLimbs ∧ t.flags = s.flags ∧ t.status = s.status ∧ t.cmd = s.cmd ∧
      (t.wMarked i = true → (t.busRead (wAddr i j) 32).response = .data (wAddr i j) v)) ∧
    (∀ (i : PReg) (c : Fin 3),
      let t := s.busWrite (ptAddr i c j) 32 v
      (∀ (d : Fin 3) (k : Fin 16),
        limb (t.pt[i].coord d) k = if d = c ∧ k = j then v else limb (s.pt[i].coord d) k) ∧
      (∀ k : PReg, k ≠ i → t.pt[k] = s.pt[k] ∧ t.ptLimbs[k] = s.ptLimbs[k]) ∧
      (∀ (d : Fin 3) (k : Fin 16), t.ptLimbs[i].getLsbD (16 * d.val + k.val) =
        (decide (d = c ∧ k = j) || s.ptLimbs[i].getLsbD (16 * d.val + k.val))) ∧
      (t.ptMarked i = true ↔ ∀ (d : Fin 3) (k : Fin 16), t.ptLimbs[i].getLsbD (16 * d.val + k.val) = true) ∧
      t.w = s.w ∧ t.wLimbs = s.wLimbs ∧ t.flags = s.flags ∧ t.status = s.status ∧ t.cmd = s.cmd ∧
      (t.ptMarked i = true → (t.busRead (ptAddr i c j) 32).response = .data (ptAddr i c j) v)) ∧
    (∀ i : WReg, s.hardReset.wLimbs[i] = 0) ∧ (∀ i : PReg, s.hardReset.ptLimbs[i] = 0)

/-- R282: once the host has written every limb of W[i], or of PT[i], while BUSY = 0, the register holds the written
value and is initialised, and no other register, mark, FLAGS or STATUS changed. -/
def Obligations.FullHostWriteInitialises : Prop :=
  ∀ s : State, s.status.busy = false →
    (∀ (i : WReg) (v : Value),
      let t := hostWriteW i v s
      t.w[i] = v ∧ t.wMarked i = true ∧ (∀ k, k ≠ i → t.w[k] = s.w[k] ∧ t.wMarked k = s.wMarked k) ∧
        t.pt = s.pt ∧ t.ptLimbs = s.ptLimbs ∧ t.flags = s.flags ∧ t.status = s.status ∧ t.cmd = s.cmd) ∧
    (∀ (i : PReg) (p : Point),
      let t := hostWritePT i p s
      t.pt[i] = p ∧ t.ptMarked i = true ∧ (∀ k, k ≠ i → t.pt[k] = s.pt[k] ∧ t.ptMarked k = s.ptMarked k) ∧
        t.w = s.w ∧ t.wLimbs = s.wLimbs ∧ t.flags = s.flags ∧ t.status = s.status ∧ t.cmd = s.cmd)

/-- R23 to R26, R53, R57 to R59, R282: a BusRead has no side effect on the block. Location by location: ID, CMD,
STATUS and the ROM always answer their content; CTRL and the reserved addresses answer 0; FLAGS answers its content
while BUSY = 0; a limb of W or PT answers its content while BUSY = 0 once the register is initialised. Every other
read of FLAGS, W or PT answers an unspecified value, and each such read counts as a new draw (the form of the free
value is the model's, log 6). -/
def Obligations.ReadsAnswerWithoutSideEffect : Prop :=
  ∀ (s : State) (a : Addr) (width : Nat),
    let t := s.busRead a width
    (t.status = s.status ∧ t.flags = s.flags ∧ t.cmd = s.cmd ∧ t.w = s.w ∧ t.pt = s.pt ∧ t.wLimbs = s.wLimbs ∧
      t.ptLimbs = s.ptLimbs ∧ t.uninitFault = s.uninitFault ∧ t.schedule = s.schedule) ∧
    (width = 32 → a.toNat % 4 = 0 →
      let n := a.toNat
      let answers := fun v : Word => t = { s with response := .data a v }
      let draws := t = { s with response := .data a (Config.unspecifiedRead s.draws), draws := s.draws + 1 }
      (n = 0x0000 → answers 0x50323234) ∧ (n = 0x0004 → answers s.cmd) ∧ (n = 0x0008 → answers s.status.word) ∧
      (n = 0x000C → (s.status.busy = false → answers s.flags.word) ∧ (s.status.busy = true → draws)) ∧
      (∀ (i : WReg) (j : Fin 16), n = 0x1000 + 0x40 * i.val + 4 * j.val →
        (s.status.busy = false → s.wMarked i = true → answers (s.w[i].extractLsb' (32 * j.val) 32)) ∧
        (s.status.busy = true ∨ s.wMarked i = false → draws)) ∧
      (∀ (i : PReg) (c : Fin 3) (j : Fin 16), n = 0x2000 + 0xC0 * i.val + 0x40 * c.val + 4 * j.val →
        (s.status.busy = false → s.ptMarked i = true → answers ((s.pt[i].coord c).extractLsb' (32 * j.val) 32)) ∧
        (s.status.busy = true ∨ s.ptMarked i = false → draws)) ∧
      (∀ (r : Fin 5) (j : Fin 16), n = 0x3000 + 0x40 * r.val + 4 * j.val →
        answers (rom[r].extractLsb' (32 * j.val) 32)) ∧
      ((0x0010 ≤ n ∧ n < 0x1000) ∨ (0x1400 ≤ n ∧ n < 0x2000) ∨ (0x2600 ≤ n ∧ n < 0x3000) ∨ 0x3140 ≤ n → answers 0))

/-- R58, R28: a write to a reserved address, to ID, to FLAGS or to the ROM window is ignored. -/
def Obligations.ReadOnlyWritesAreIgnored : Prop :=
  ∀ (s : State) (a : Addr) (v : Word), a.toNat % 4 = 0 →
    (a.toNat = 0 ∨ a.toNat = 0x000C ∨ (0x0014 ≤ a.toNat ∧ a.toNat < 0x1000) ∨ (0x1400 ≤ a.toNat ∧ a.toNat < 0x2000) ∨
      0x2600 ≤ a.toNat) →
    s.busWrite a 32 v = { s with response := .written a }

/-- R55, R261: an access of another width or at a misaligned address is answered with a bus error; nothing of the block
changes, a running command included. The recorded host fault is R55's "fault of the host agent" (log 4). -/
def Obligations.RefusedAccessChangesNothing : Prop :=
  ∀ (s : State) (a : Addr) (width : Nat) (v : Word), width ≠ 32 ∨ a.toNat % 4 ≠ 0 →
    s.busRead a width = { s with response := .busError a, busFault := true } ∧
    s.busWrite a width v = { s with response := .busError a, busFault := true }

/-! ## Integer commands (40_integer.md) -/

/-- R101, R102, R103: the sum, the difference and the product modulo 2^512, no flag, no error. -/
def Obligations.AddSubMulWrap : Prop :=
  ∀ (s : State) (d a b : WReg), s.wMarked a = true → s.wMarked b = true →
    (encode (.add d a b) = rWord 0x01 d a b ∧
      WritesW (.add d a b) s d (BitVec.ofNat 512 (s.w[a].toNat + s.w[b].toNat))) ∧
    (encode (.sub d a b) = rWord 0x02 d a b ∧
      WritesW (.sub d a b) s d (BitVec.ofNat 512 (s.w[a].toNat + (2 ^ 512 - s.w[b].toNat)))) ∧
    (encode (.mul d a b) = rWord 0x03 d a b ∧
      WritesW (.mul d a b) s d (BitVec.ofNat 512 (s.w[a].toNat * s.w[b].toNat)))

/-- R104, R105: floor quotient and remainder; divisor 0 raises DIV_BY_ZERO and writes nothing. -/
def Obligations.DivRemUnsigned : Prop :=
  ∀ (s : State) (d a b : WReg), s.wMarked a = true → s.wMarked b = true →
    encode (.div d a b) = rWord 0x04 d a b ∧ encode (.rem d a b) = rWord 0x05 d a b ∧
    (s.w[b].toNat ≠ 0 →
      WritesW (.div d a b) s d (BitVec.ofNat 512 (s.w[a].toNat / s.w[b].toNat)) ∧
      WritesW (.rem d a b) s d (BitVec.ofNat 512 (s.w[a].toNat % s.w[b].toNat))) ∧
    (s.w[b].toNat = 0 → FailsWith (.div d a b) s .divByZero ∧ FailsWith (.rem d a b) s .divByZero)

/-- R106, R107, R108: AND, OR and XOR, bit by bit. -/
def Obligations.BitwiseCommands : Prop :=
  ∀ (s : State) (d a b : WReg), s.wMarked a = true → s.wMarked b = true →
    encode (.and d a b) = rWord 0x06 d a b ∧ encode (.or d a b) = rWord 0x07 d a b ∧
    encode (.xor d a b) = rWord 0x08 d a b ∧
    (∃ v, WritesW (.and d a b) s d v ∧ ∀ k < 512, v.getLsbD k = (s.w[a].getLsbD k && s.w[b].getLsbD k)) ∧
    (∃ v, WritesW (.or d a b) s d v ∧ ∀ k < 512, v.getLsbD k = (s.w[a].getLsbD k || s.w[b].getLsbD k)) ∧
    (∃ v, WritesW (.xor d a b) s d v ∧ ∀ k < 512, v.getLsbD k = (s.w[a].getLsbD k ^^ s.w[b].getLsbD k))

/-- R109, R110, R111: shifts by the whole of W[b]; 512 and more give 0. -/
def Obligations.ShiftsByRegister : Prop :=
  ∀ (s : State) (d a b : WReg), s.wMarked a = true → s.wMarked b = true →
    encode (.shl d a b) = rWord 0x09 d a b ∧ encode (.shr d a b) = rWord 0x0A d a b ∧
    (512 ≤ s.w[b].toNat → WritesW (.shl d a b) s d 0 ∧ WritesW (.shr d a b) s d 0) ∧
    (s.w[b].toNat < 512 →
      WritesW (.shl d a b) s d (BitVec.ofNat 512 (s.w[a].toNat * 2 ^ s.w[b].toNat)) ∧
      WritesW (.shr d a b) s d (BitVec.ofNat 512 (s.w[a].toNat / 2 ^ s.w[b].toNat)))

/-- R84, R112, R113: shifts by an immediate, zero-extended and not masked; 512..4095 give 0. -/
def Obligations.ShiftsByImmediate : Prop :=
  ∀ (s : State) (d a : WReg) (imm : Imm12), s.wMarked a = true →
    encode (.shli d a imm) = iWord 0x0B d a imm ∧ encode (.shri d a imm) = iWord 0x0C d a imm ∧
    (512 ≤ imm.toNat → WritesW (.shli d a imm) s d 0 ∧ WritesW (.shri d a imm) s d 0) ∧
    (imm.toNat < 512 →
      WritesW (.shli d a imm) s d (BitVec.ofNat 512 (s.w[a].toNat * 2 ^ imm.toNat)) ∧
      WritesW (.shri d a imm) s d (BitVec.ofNat 512 (s.w[a].toNat / 2 ^ imm.toNat)))

/-- R116, R22: CMP writes all of FLAGS from the unsigned comparison: EQ 1, LT 2, GT 4, bits 31:3 zero, and no W
register. -/
def Obligations.CmpWritesFlags : Prop :=
  ∀ (s : State) (a b : WReg), s.wMarked a = true → s.wMarked b = true →
    encode (.cmp a b) = rWord 0x0D 0 a b ∧ OperandsIllegal 0x0D (fun d _ _ => d ≠ 0) ∧
    ∃ f, WritesFlags (.cmp a b) s f ∧
      f.word = if s.w[a].toNat = s.w[b].toNat then 1#32 else if s.w[a].toNat < s.w[b].toNat then 2#32 else 4#32

/-- R117: CVT64 copies a value below 2^64 and raises CONVERSION_OVERFLOW otherwise. -/
def Obligations.Cvt64ChecksRange : Prop :=
  ∀ (s : State) (d a : WReg), s.wMarked a = true →
    encode (.cvt64 d a) = rWord 0x0E d a 0 ∧ OperandsIllegal 0x0E (fun _ _ b => b ≠ 0) ∧
    (s.w[a].toNat < 2 ^ 64 → WritesW (.cvt64 d a) s d s.w[a]) ∧
    (2 ^ 64 ≤ s.w[a].toNat → FailsWith (.cvt64 d a) s .conversionOverflow)

/-- R114, R115: INVMOD raises DIV_BY_ZERO for modulus 0, else NOT_INVERTIBLE when W[a] % W[b] = 0, else writes the t
of the loop after the first number of passes that makes new_r zero, which always exists. -/
def Obligations.InvmodRunsTheLoop : Prop :=
  ∀ (s : State) (d a b : WReg), s.wMarked a = true → s.wMarked b = true →
    encode (.invmod d a b) = rWord 0x0F d a b ∧
    (s.w[b].toNat = 0 → FailsWith (.invmod d a b) s .divByZero) ∧
    (s.w[b].toNat ≠ 0 → s.w[a].toNat % s.w[b].toNat = 0 → FailsWith (.invmod d a b) s .notInvertible) ∧
    (s.w[b].toNat ≠ 0 → s.w[a].toNat % s.w[b].toNat ≠ 0 →
      ∃ n, (∀ k < n, ((euclidPass s.w[b])^[k] (euclidStart s.w[a] s.w[b])).newR ≠ 0) ∧
        ((euclidPass s.w[b])^[n] (euclidStart s.w[a] s.w[b])).newR = 0 ∧
        WritesW (.invmod d a b) s d ((euclidPass s.w[b])^[n] (euclidStart s.w[a] s.w[b])).t)

/-- R115 corner cases 1, 2, 4 and 5: for a modulus m of 2 or more and a mod m ≠ 0 there is a result t, it is below m, and
it is the one that a mod m has; for m below 2^256, (a * t) mod m = gcd(a, m), so t is the inverse of a when a and m are
coprime. -/
def Obligations.InverseModIsExact : Prop :=
  ∀ a m : Value, 2 ≤ m.toNat → a.toNat % m.toNat ≠ 0 →
    inverseMod a m = inverseMod (a % m) m ∧
    ∃ t, inverseMod a m = .ok t ∧ t.toNat < m.toNat ∧
      (m.toNat < 2 ^ 256 → a.toNat * t.toNat % m.toNat = Nat.gcd a.toNat m.toNat)

/-! ## Constants (41_constants.md) -/

/-- R141 to R145: LDC loads the five constants, reading no register; another index or a nonzero A field is no
command. -/
def Obligations.LdcLoadsTheRom : Prop :=
  ∀ (s : State) (d : WReg),
    WritesW (.ldc d 0) s d (BitVec.ofNat 512 (2 ^ 224 - 2 ^ 96 + 1)) ∧
    WritesW (.ldc d 1) s d (BitVec.ofNat 512 (2 ^ 224 - 2 ^ 96 - 2)) ∧
    WritesW (.ldc d 2) s d 0xb70e0cbd6bb4bf7f321390b94a03c1d356c21122343280d6115c1d21#512 ∧
    WritesW (.ldc d 3) s d 0xbd376388b5f723fb4c22dfe6cd4375a05a07476444d5819985007e34#512 ∧
    WritesW (.ldc d 4) s d 0xffffffffffffffffffffffffffff16a2e0b8f03e13dd29455c5c2a3d#512 ∧
    (∀ idx, encode (.ldc d idx) = iWord 0x10 d 0 idx ∧ sources (.ldc d idx) s = []) ∧
    (∀ c : Word, c.toNat % 256 = 0x10 →
      5 ≤ c.toNat / 2 ^ 20 ∨ c.toNat / 2 ^ 12 % 16 ≠ 0 → decode c = .error .illegalOperand)

/-- R146: PLDG writes (Gx, Gy, 1), reading no register; a D of 8 or more or a nonzero A or B is no command. -/
def Obligations.PldgLoadsTheBasePoint : Prop :=
  ∀ (s : State) (d : PReg),
    WritesPT (.pldg d) s d
      { x := 0xb70e0cbd6bb4bf7f321390b94a03c1d356c21122343280d6115c1d21#512
        y := 0xbd376388b5f723fb4c22dfe6cd4375a05a07476444d5819985007e34#512
        z := 1#512 } ∧
    encode (.pldg d) = rWord 0x11 d 0 0 ∧ sources (.pldg d) s = [] ∧
    OperandsIllegal 0x11 (fun d a b => 8 ≤ d ∨ a ≠ 0 ∨ b ≠ 0)

/-! ## Point commands (42_point.md) -/

/-- R152, R159: PNEG keeps X and Z and writes (P − Y) mod P; a coordinate of P or more raises OPERAND_RANGE. -/
def Obligations.PnegNegatesY : Prop :=
  ∀ (s : State) (d a : PReg), s.ptMarked a = true →
    encode (.pneg d a) = rWord 0x20 d a 0 ∧ OperandsIllegal 0x20 (fun d a b => 8 ≤ d ∨ 8 ≤ a ∨ b ≠ 0) ∧
    (s.pt[a].InField →
      WritesPT (.pneg d a) s d
        { x := s.pt[a].x
          y := BitVec.ofNat 512 ((fieldPrime - s.pt[a].y.toNat) % fieldPrime)
          z := s.pt[a].z }) ∧
    (¬ s.pt[a].InField → FailsWith (.pneg d a) s .operandRange)

/-- R160, R161: PADD and PDBL write padd and pdbl of their sources, read whole before the write, and raise
OPERAND_RANGE when a source coordinate is P or more. -/
def Obligations.PaddPdblComplete : Prop :=
  ∀ (s : State) (d a b : PReg), s.ptMarked a = true → s.ptMarked b = true →
    encode (.padd d a b) = rWord 0x21 d a b ∧ OperandsIllegal 0x21 (fun d a b => 8 ≤ d ∨ 8 ≤ a ∨ 8 ≤ b) ∧
    encode (.pdbl d a) = rWord 0x22 d a 0 ∧ OperandsIllegal 0x22 (fun d a b => 8 ≤ d ∨ 8 ≤ a ∨ b ≠ 0) ∧
    (s.pt[a].InField → WritesPT (.pdbl d a) s d (pdbl s.pt[a])) ∧
    (¬ s.pt[a].InField → FailsWith (.pdbl d a) s .operandRange) ∧
    (s.pt[a].InField → s.pt[b].InField →
      WritesPT (.padd d a b) s d (padd s.pt[a] s.pt[b])) ∧
    (¬ (s.pt[a].InField ∧ s.pt[b].InField) → FailsWith (.padd d a b) s .operandRange)

/-- R153, R154: padd in the control of R153, and its coordinates congruent to the formulas of R154 modulo P. -/
def Obligations.PaddFollowsItsFormulas : Prop :=
  ∀ p q : Point, p.InField → q.InField →
    let m : Int := fieldPrime
    let X1 : Int := p.x.toNat
    let Y1 : Int := p.y.toNat
    let Z1 : Int := p.z.toNat
    let X2 : Int := q.x.toNat
    let Y2 : Int := q.y.toNat
    let Z2 : Int := q.z.toNat
    let U1 := X1 * Z2 ^ 2
    let U2 := X2 * Z1 ^ 2
    let S1 := Y1 * Z2 ^ 3
    let S2 := Y2 * Z1 ^ 3
    let H := U2 - U1
    let R := S2 - S1
    let V := U1 * H ^ 2
    (p.x = 0 ∧ p.y = 0 → padd p q = q) ∧
    (¬ (p.x = 0 ∧ p.y = 0) → (q.x = 0 ∧ q.y = 0) → padd p q = p) ∧
    (¬ (p.x = 0 ∧ p.y = 0) → ¬ (q.x = 0 ∧ q.y = 0) →
      (U1 ≡ U2 [ZMOD m] → S1 ≡ S2 [ZMOD m] → padd p q = pdbl p) ∧
      (U1 ≡ U2 [ZMOD m] → ¬ S1 ≡ S2 [ZMOD m] → padd p q = { x := 0, y := 0, z := 1 }) ∧
      (¬ U1 ≡ U2 [ZMOD m] →
        (padd p q).InField ∧
        ((padd p q).x.toNat : Int) ≡ R ^ 2 - H ^ 3 - 2 * V [ZMOD m] ∧
        ((padd p q).y.toNat : Int) ≡ R * (V - (R ^ 2 - H ^ 3 - 2 * V)) - S1 * H ^ 3 [ZMOD m] ∧
        ((padd p q).z.toNat : Int) ≡ Z1 * Z2 * H [ZMOD m]))

/-- R155, R156: pdbl of an identity is (0, 0, 1), else its coordinates are congruent to the formulas of R156 modulo
P. -/
def Obligations.PdblFollowsItsFormulas : Prop :=
  ∀ p : Point, p.InField →
    let m : Int := fieldPrime
    let X1 : Int := p.x.toNat
    let Y1 : Int := p.y.toNat
    let Z1 : Int := p.z.toNat
    let S := 2 * ((X1 + Y1 ^ 2) ^ 2 - X1 ^ 2 - Y1 ^ 4)
    let M := 3 * X1 ^ 2 + (m - 3) * Z1 ^ 4
    (p.x = 0 ∧ p.y = 0 → pdbl p = { x := 0, y := 0, z := 1 }) ∧
    (¬ (p.x = 0 ∧ p.y = 0) →
      (pdbl p).InField ∧
      ((pdbl p).x.toNat : Int) ≡ M ^ 2 - 2 * S [ZMOD m] ∧
      ((pdbl p).y.toNat : Int) ≡ M * (S - (M ^ 2 - 2 * S)) - 8 * Y1 ^ 4 [ZMOD m] ∧
      ((pdbl p).z.toNat : Int) ≡ (Y1 + Z1) ^ 2 - Y1 ^ 2 - Z1 ^ 2 [ZMOD m])

/-- R157, R162: PAFF raises OPERAND_RANGE for a coordinate of P or more, else NOT_INVERTIBLE when Z = 0, else writes
(X·zi², Y·zi³, 1) with zi = inverse_mod(Z, P). -/
def Obligations.PaffConvertsToAffine : Prop :=
  ∀ (s : State) (d a : PReg), s.ptMarked a = true →
    encode (.paff d a) = rWord 0x23 d a 0 ∧ OperandsIllegal 0x23 (fun d a b => 8 ≤ d ∨ 8 ≤ a ∨ b ≠ 0) ∧
    (¬ s.pt[a].InField → FailsWith (.paff d a) s .operandRange) ∧
    (s.pt[a].InField → s.pt[a].z.toNat = 0 → FailsWith (.paff d a) s .notInvertible) ∧
    (s.pt[a].InField → s.pt[a].z.toNat ≠ 0 →
      ∃ zi, inverseMod s.pt[a].z P = .ok zi ∧
        WritesPT (.paff d a) s d
          { x := BitVec.ofNat 512 (s.pt[a].x.toNat * zi.toNat ^ 2 % fieldPrime)
            y := BitVec.ofNat 512 (s.pt[a].y.toNat * zi.toNat ^ 3 % fieldPrime)
            z := 1 })

/-- R15, R157 (derived): the affine coordinates x, y of a point whose Z is coprime to P satisfy x·Z² ≡ X and
y·Z³ ≡ Y modulo P. -/
def Obligations.AffineCoordinatesAreQuotients : Prop :=
  ∀ p : Point, p.InField → Nat.Coprime p.z.toNat fieldPrime →
    ∃ q, toAffine p = .ok q ∧ q.z = 1 ∧ q.InField ∧
      q.x.toNat * p.z.toNat ^ 2 % fieldPrime = p.x.toNat ∧
      q.y.toNat * p.z.toNat ^ 3 % fieldPrime = p.y.toNat

/-- R150: from sources in [0, P), every coordinate that pneg, padd, pdbl, smul and to_affine give is in [0, P). -/
def Obligations.PointResultsAreCanonical : Prop :=
  ∀ p q : Point, p.InField → q.InField →
    (pneg p).InField ∧ (padd p q).InField ∧ (pdbl p).InField ∧
    (∀ k, (smul p k).InField) ∧ (∀ r, toAffine p = .ok r → r.InField)

/-! ## Scalar multiplication (43_scalar.md) -/

/-- R186: SMUL writes smul of its point and the whole 512-bit scalar, or raises OPERAND_RANGE. -/
def Obligations.SmulCompletes : Prop :=
  ∀ (s : State) (d a : PReg) (b : WReg), s.ptMarked a = true → s.wMarked b = true →
    encode (.smul d a b) = rWord 0x30 d a b ∧ OperandsIllegal 0x30 (fun d a _ => 8 ≤ d ∨ 8 ≤ a) ∧
    (s.pt[a].InField → WritesPT (.smul d a b) s d (smul s.pt[a] s.w[b])) ∧
    (¬ s.pt[a].InField → FailsWith (.smul d a b) s .operandRange)

/-- R181 to R185: smul is the accumulation over the digits of k % N, the most significant first: one doubling at each
position, then, with the accumulator as the first operand, the addition of T[d] for a digit d > 0 or of the negation
of T[-d] for d < 0, where T[i] is i additions of the point to the identity. So (R186 corner cases 1 to 3) a scalar
that is 0 modulo N gives (0, 0, 1), one that is 1 gives the point unchanged, an identity gives an identity; and for an
odd m up to 15, m gives T[m], 2m gives its double, and 32 − m the fifth double of the point plus the negation of
T[m]. -/
def Obligations.SmulCornerCases : Prop :=
  ∀ (p : Point) (k : Value), p.InField →
    let T := fun i : Nat => (fun q => padd q p)^[i] Point.identity
    (smul p k = (recode (k % N)).foldr
      (fun d acc =>
        if d = 0 then pdbl acc
        else if 0 < d then padd (pdbl acc) (T d.toNat)
        else padd (pdbl acc) (pneg (T (-d).toNat))) { x := 0, y := 0, z := 1 }) ∧
    (k.toNat % N.toNat = 0 → smul p k = { x := 0, y := 0, z := 1 }) ∧
    (k.toNat % N.toNat = 1 → smul p k = p) ∧
    (p.x = 0 ∧ p.y = 0 → (smul p k).x = 0 ∧ (smul p k).y = 0) ∧
    (∀ m : Nat, m % 2 = 1 → m < 16 →
      (k.toNat % N.toNat = m → smul p k = T m) ∧
      (k.toNat % N.toNat = 2 * m → smul p k = pdbl (T m)) ∧
      (k.toNat % N.toNat = 32 - m → smul p k = padd (pdbl^[5] p) (pneg (T m))))

/-- R187 item 2, R183: the 225 digits of every scalar below 2^224 sum to it exactly, so the bound of the loop never
cuts a digit off. -/
def Obligations.DigitsSumToTheScalar : Prop :=
  ∀ k : Value, k.toNat < 2 ^ 224 → (recode k).length = 225 ∧ digitSum (recode k) = k.toNat

/-- R187 items 1 and 3: every nonzero digit is odd and of magnitude at most 15, and two nonzero digits are at least 5
positions apart. -/
def Obligations.DigitsAreOddAndSparse : Prop :=
  ∀ k : Value,
    (∀ d ∈ recode k, d ≠ 0 → d % 2 = 1 ∧ -15 ≤ d ∧ d ≤ 15) ∧
    (∀ i j : Nat, i < j → (recode k).getD i 0 ≠ 0 → (recode k).getD j 0 ≠ 0 → i + 5 ≤ j)

/-! ## Key commands (44_key.md) -/

/-- R201: KPUB stores the scalar unreduced and the affine point of smul(G, s) in the slot; the only error is that of
to_affine. -/
def Obligations.KpubMakesAKey : Prop :=
  ∀ (s : State) (d : Slot) (a : WReg), s.wMarked a = true →
    encode (.kpub d a) = rWord 0x40 d a 0 ∧ OperandsIllegal 0x40 (fun d _ b => 8 ≤ d ∨ b ≠ 0) ∧
    (match toAffine (smul Point.base s.w[a]) with
     | .ok q => WritesSlot (.kpub d a) s d s.w[a] q
     | .error e => FailsWith (.kpub d a) s e)

/-- R202: KDRV uses the own scalar with the peer's point when the own is not 0, else the peer's scalar with the own
point when that is not 0, else raises CANNOT_DERIVE; then OPERAND_RANGE, then the error of to_affine; the slot gets
scalar 0. The Z of the public point is not read. -/
def Obligations.KdrvDerives : Prop :=
  ∀ (s : State) (d a b : Slot) (k : Value) (q : Point),
    encode (.kdrv d a b) = rWord 0x41 d a b ∧ OperandsIllegal 0x41 (fun d a b => 8 ≤ d ∨ 8 ≤ a ∨ 8 ≤ b) ∧
    (s.wMarked (slotW a) = true → s.wMarked (slotW b) = true →
      (s.w[slotW a] = 0 → s.w[slotW b] = 0 → FailsWith (.kdrv d a b) s .cannotDerive) ∧
      ((s.w[slotW a] ≠ 0 ∧ k = s.w[slotW a] ∧ s.ptMarked (slotPT b) = true ∧
          q = { x := s.pt[slotPT b].x, y := s.pt[slotPT b].y, z := 1 }) ∨
        (s.w[slotW a] = 0 ∧ s.w[slotW b] ≠ 0 ∧ k = s.w[slotW b] ∧ s.ptMarked (slotPT a) = true ∧
          q = { x := s.pt[slotPT a].x, y := s.pt[slotPT a].y, z := 1 }) →
        (¬ q.InField → FailsWith (.kdrv d a b) s .operandRange) ∧
        (q.InField →
          (match toAffine (smul q k) with
           | .ok r => WritesSlot (.kdrv d a b) s d 0 r
           | .error e => FailsWith (.kdrv d a b) s e))))

/-- R203, R204: PACK joins marker, X and Y by OR; UNPACK toggles the marker, splits at bit 224, and writes scalar 0 and
Z = 1. -/
def Obligations.PackAndUnpack : Prop :=
  (∀ (s : State) (d : WReg) (a : PReg), s.ptMarked a = true →
    encode (.pack d a) = rWord 0x42 d a 0 ∧ OperandsIllegal 0x42 (fun _ a b => 8 ≤ a ∨ b ≠ 0) ∧
    WritesW (.pack d a) s d
      (BitVec.ofNat 512 (2 ^ 450 ||| s.pt[a].x.toNat * 2 ^ 224 % 2 ^ 512 ||| s.pt[a].y.toNat))) ∧
  (∀ (s : State) (d : Slot) (a : WReg), s.wMarked a = true →
    encode (.unpack d a) = rWord 0x43 d a 0 ∧ OperandsIllegal 0x43 (fun d _ b => 8 ≤ d ∨ b ≠ 0) ∧
    WritesSlot (.unpack d a) s d 0
      { x := BitVec.ofNat 512 ((s.w[a].toNat ^^^ 2 ^ 450) / 2 ^ 224)
        y := BitVec.ofNat 512 ((s.w[a].toNat ^^^ 2 ^ 450) % 2 ^ 224)
        z := 1 })

/-- R203, R204 (derived): unpacking the packed form of a point with coordinates below 2^224 gives them back, and the
packed form is below 2^451 with bit 450 set. -/
def Obligations.UnpackInvertsPack : Prop :=
  ∀ p : Point, p.x.toNat < 2 ^ 224 → p.y.toNat < 2 ^ 224 →
    unpackPoint (packPoint p) = { x := p.x, y := p.y, z := 1 } ∧
    2 ^ 450 ≤ (packPoint p).toNat ∧ (packPoint p).toNat < 2 ^ 451

/-! ## The host driver's text contract (45_host_text.md) -/

/-- R222, R223, R236: HexFormat has at least 64 and at most 128 octets and no leading `0` beyond 64, and HexParse gives
the value back. -/
def Obligations.HexTextRoundTrip : Prop :=
  ∀ v : Value, hexParse (hexFormat v) = .ok v ∧ 64 ≤ (hexFormat v).length ∧ (hexFormat v).length ≤ 128 ∧
    (64 < (hexFormat v).length → (hexFormat v).head? ≠ some 0x30#8)

/-- R225, R234, R235: from_public_hex looks at the length before any parsing, and only a text of 113 octets reaches
the block. -/
def Obligations.PublicTextIsCheckedByLength : Prop :=
  ∀ (k : Slot) (text : List Byte) (s : State),
    (text.length = 57 → fromPublicHex k text s = (.error .unsupportedFormat, s)) ∧
    (text.length ≠ 57 → text.length ≠ 113 → fromPublicHex k text s = (.error .invalidLength, s)) ∧
    (text.length = 113 → ∀ e, hexParse text = .error e → fromPublicHex k text s = (.error .parseError, s))

/-- R236: on an idle block, from_public_hex of the get_public_hex text of a Key with coordinates below 2^224 returns
the same coordinates with scalar 0; and from_private_hex of the get_private_hex text of a Key that from_private_hex
made returns that Key, whatever slots the host uses. A CONFLICT bit left in STATUS does not change this by the model's
choice (log 23, DESIGN CHOICE). -/
def Obligations.PublicTextRoundTrip : Prop :=
  (∀ (k : Slot) (i : PReg) (j : WReg) (key : HostKey) (s s' : State),
    s.status.busy = false → s'.status.busy = false → key.x.toNat < 2 ^ 224 → key.y.toNat < 2 ^ 224 →
    ∃ text, (getPublicHex i j key s).1 = .ok text ∧ text.length = 113 ∧
      (fromPublicHex k text s').1 = .ok { s := 0, x := key.x, y := key.y }) ∧
  (∀ (k k' : Slot) (key : HostKey) (text : List Byte) (s s' : State),
    s.status.busy = false → s'.status.busy = false → (fromPrivateHex k text s).1 = .ok key →
    (fromPrivateHex k' (getPrivateHex key) s').1 = .ok key)
end

