-- ==== Sys2Proof/Laws/State.lean ====
section
/-! SUPPORT. One lemma per field per update of the state, true by `rfl`, so that no later proof unfolds a record
update. -/

namespace Sys2Proof.Machine

variable (s : State)

/-! ## `State.putW` -/

@[simp] theorem State.putW_w (i : WReg) (v : Value) : (s.putW i v).w = s.w.set i v := rfl
@[simp] theorem State.putW_pt (i : WReg) (v : Value) : (s.putW i v).pt = s.pt := rfl
@[simp] theorem State.putW_flags (i : WReg) (v : Value) : (s.putW i v).flags = s.flags := rfl
@[simp] theorem State.putW_status (i : WReg) (v : Value) : (s.putW i v).status = s.status := rfl
@[simp] theorem State.putW_cmd (i : WReg) (v : Value) : (s.putW i v).cmd = s.cmd := rfl
@[simp] theorem State.putW_wLimbs (i : WReg) (v : Value) : (s.putW i v).wLimbs = s.wLimbs.set i (BitVec.allOnes 16) := rfl
@[simp] theorem State.putW_ptLimbs (i : WReg) (v : Value) : (s.putW i v).ptLimbs = s.ptLimbs := rfl
@[simp] theorem State.putW_uninitFault (i : WReg) (v : Value) : (s.putW i v).uninitFault = s.uninitFault := rfl
@[simp] theorem State.putW_busFault (i : WReg) (v : Value) : (s.putW i v).busFault = s.busFault := rfl
@[simp] theorem State.putW_schedule (i : WReg) (v : Value) : (s.putW i v).schedule = s.schedule := rfl
@[simp] theorem State.putW_response (i : WReg) (v : Value) : (s.putW i v).response = s.response := rfl
@[simp] theorem State.putW_draws (i : WReg) (v : Value) : (s.putW i v).draws = s.draws := rfl

/-! ## `State.putPT` -/

@[simp] theorem State.putPT_w (i : PReg) (p : Point) : (s.putPT i p).w = s.w := rfl
@[simp] theorem State.putPT_pt (i : PReg) (p : Point) : (s.putPT i p).pt = s.pt.set i p := rfl
@[simp] theorem State.putPT_flags (i : PReg) (p : Point) : (s.putPT i p).flags = s.flags := rfl
@[simp] theorem State.putPT_status (i : PReg) (p : Point) : (s.putPT i p).status = s.status := rfl
@[simp] theorem State.putPT_cmd (i : PReg) (p : Point) : (s.putPT i p).cmd = s.cmd := rfl
@[simp] theorem State.putPT_wLimbs (i : PReg) (p : Point) : (s.putPT i p).wLimbs = s.wLimbs := rfl
@[simp] theorem State.putPT_ptLimbs (i : PReg) (p : Point) : (s.putPT i p).ptLimbs = s.ptLimbs.set i (BitVec.allOnes 48) := rfl
@[simp] theorem State.putPT_uninitFault (i : PReg) (p : Point) : (s.putPT i p).uninitFault = s.uninitFault := rfl
@[simp] theorem State.putPT_busFault (i : PReg) (p : Point) : (s.putPT i p).busFault = s.busFault := rfl
@[simp] theorem State.putPT_schedule (i : PReg) (p : Point) : (s.putPT i p).schedule = s.schedule := rfl
@[simp] theorem State.putPT_response (i : PReg) (p : Point) : (s.putPT i p).response = s.response := rfl
@[simp] theorem State.putPT_draws (i : PReg) (p : Point) : (s.putPT i p).draws = s.draws := rfl

/-! ## `State.fail` -/

@[simp] theorem State.fail_w (e : CmdError) : (s.fail e).w = s.w := rfl
@[simp] theorem State.fail_pt (e : CmdError) : (s.fail e).pt = s.pt := rfl
@[simp] theorem State.fail_flags (e : CmdError) : (s.fail e).flags = s.flags := rfl
@[simp] theorem State.fail_status (e : CmdError) : (s.fail e).status = s.status.failed e := rfl
@[simp] theorem State.fail_cmd (e : CmdError) : (s.fail e).cmd = s.cmd := rfl
@[simp] theorem State.fail_wLimbs (e : CmdError) : (s.fail e).wLimbs = s.wLimbs := rfl
@[simp] theorem State.fail_ptLimbs (e : CmdError) : (s.fail e).ptLimbs = s.ptLimbs := rfl
@[simp] theorem State.fail_uninitFault (e : CmdError) : (s.fail e).uninitFault = s.uninitFault := rfl
@[simp] theorem State.fail_busFault (e : CmdError) : (s.fail e).busFault = s.busFault := rfl
@[simp] theorem State.fail_schedule (e : CmdError) : (s.fail e).schedule = s.schedule := rfl
@[simp] theorem State.fail_response (e : CmdError) : (s.fail e).response = s.response := rfl
@[simp] theorem State.fail_draws (e : CmdError) : (s.fail e).draws = s.draws := rfl

/-! ## `State.writeStatus` -/

@[simp] theorem State.writeStatus_w (v : Word) : (s.writeStatus v).w = s.w := rfl
@[simp] theorem State.writeStatus_pt (v : Word) : (s.writeStatus v).pt = s.pt := rfl
@[simp] theorem State.writeStatus_flags (v : Word) : (s.writeStatus v).flags = s.flags := rfl
@[simp] theorem State.writeStatus_status (v : Word) : (s.writeStatus v).status = s.status.clearedBy v := rfl
@[simp] theorem State.writeStatus_cmd (v : Word) : (s.writeStatus v).cmd = s.cmd := rfl
@[simp] theorem State.writeStatus_wLimbs (v : Word) : (s.writeStatus v).wLimbs = s.wLimbs := rfl
@[simp] theorem State.writeStatus_ptLimbs (v : Word) : (s.writeStatus v).ptLimbs = s.ptLimbs := rfl
@[simp] theorem State.writeStatus_uninitFault (v : Word) : (s.writeStatus v).uninitFault = s.uninitFault := rfl
@[simp] theorem State.writeStatus_busFault (v : Word) : (s.writeStatus v).busFault = s.busFault := rfl
@[simp] theorem State.writeStatus_schedule (v : Word) : (s.writeStatus v).schedule = s.schedule := rfl
@[simp] theorem State.writeStatus_response (v : Word) : (s.writeStatus v).response = s.response := rfl
@[simp] theorem State.writeStatus_draws (v : Word) : (s.writeStatus v).draws = s.draws := rfl

/-! ## `State.softReset` -/

@[simp] theorem State.softReset_w : (s.softReset).w = s.w := rfl
@[simp] theorem State.softReset_pt : (s.softReset).pt = s.pt := rfl
@[simp] theorem State.softReset_flags : (s.softReset).flags = Flags.zero := rfl
@[simp] theorem State.softReset_status : (s.softReset).status = Status.zero := rfl
@[simp] theorem State.softReset_cmd : (s.softReset).cmd = 0 := rfl
@[simp] theorem State.softReset_wLimbs : (s.softReset).wLimbs = s.wLimbs := rfl
@[simp] theorem State.softReset_ptLimbs : (s.softReset).ptLimbs = s.ptLimbs := rfl
@[simp] theorem State.softReset_uninitFault : (s.softReset).uninitFault = s.uninitFault := rfl
@[simp] theorem State.softReset_busFault : (s.softReset).busFault = s.busFault := rfl
@[simp] theorem State.softReset_schedule : (s.softReset).schedule = s.schedule := rfl
@[simp] theorem State.softReset_response : (s.softReset).response = s.response := rfl
@[simp] theorem State.softReset_draws : (s.softReset).draws = s.draws := rfl

/-! ## `State.hardReset` -/

@[simp] theorem State.hardReset_w : (s.hardReset).w = Vector.ofFn (fun i => Config.unspecifiedW s.draws i) := rfl
@[simp] theorem State.hardReset_pt : (s.hardReset).pt = Vector.ofFn (fun i => unspecifiedPoint s.draws i) := rfl
@[simp] theorem State.hardReset_flags : (s.hardReset).flags = Flags.zero := rfl
@[simp] theorem State.hardReset_status : (s.hardReset).status = Status.zero := rfl
@[simp] theorem State.hardReset_cmd : (s.hardReset).cmd = 0 := rfl
@[simp] theorem State.hardReset_wLimbs : (s.hardReset).wLimbs = Vector.replicate 16 0 := rfl
@[simp] theorem State.hardReset_ptLimbs : (s.hardReset).ptLimbs = Vector.replicate 8 0 := rfl
@[simp] theorem State.hardReset_uninitFault : (s.hardReset).uninitFault = s.uninitFault := rfl
@[simp] theorem State.hardReset_busFault : (s.hardReset).busFault = s.busFault := rfl
@[simp] theorem State.hardReset_schedule : (s.hardReset).schedule = s.schedule := rfl
@[simp] theorem State.hardReset_response : (s.hardReset).response = s.response := rfl
@[simp] theorem State.hardReset_draws : (s.hardReset).draws = s.draws + 1 := rfl

/-! ## `State.accept` -/

@[simp] theorem State.accept_w (v : Word) : (s.accept v).w = s.w := rfl
@[simp] theorem State.accept_pt (v : Word) : (s.accept v).pt = s.pt := rfl
@[simp] theorem State.accept_flags (v : Word) : (s.accept v).flags = s.flags := rfl
@[simp] theorem State.accept_status (v : Word) : (s.accept v).status = s.status.accepted := rfl
@[simp] theorem State.accept_cmd (v : Word) : (s.accept v).cmd = v := rfl
@[simp] theorem State.accept_wLimbs (v : Word) : (s.accept v).wLimbs = s.wLimbs := rfl
@[simp] theorem State.accept_ptLimbs (v : Word) : (s.accept v).ptLimbs = s.ptLimbs := rfl
@[simp] theorem State.accept_uninitFault (v : Word) : (s.accept v).uninitFault = (s.uninitFault || s.readsUninitialised v) := rfl
@[simp] theorem State.accept_busFault (v : Word) : (s.accept v).busFault = s.busFault := rfl
@[simp] theorem State.accept_schedule (v : Word) : (s.accept v).schedule = s.schedule := rfl
@[simp] theorem State.accept_response (v : Word) : (s.accept v).response = s.response := rfl
@[simp] theorem State.accept_draws (v : Word) : (s.accept v).draws = if s.readsUninitialised v then s.draws + 1 else s.draws := rfl

/-! ## `State.conflict` -/

@[simp] theorem State.conflict_w : (s.conflict).w = s.w := rfl
@[simp] theorem State.conflict_pt : (s.conflict).pt = s.pt := rfl
@[simp] theorem State.conflict_flags : (s.conflict).flags = s.flags := rfl
@[simp] theorem State.conflict_status : (s.conflict).status = { s.status with conflict := true } := rfl
@[simp] theorem State.conflict_cmd : (s.conflict).cmd = s.cmd := rfl
@[simp] theorem State.conflict_wLimbs : (s.conflict).wLimbs = s.wLimbs := rfl
@[simp] theorem State.conflict_ptLimbs : (s.conflict).ptLimbs = s.ptLimbs := rfl
@[simp] theorem State.conflict_uninitFault : (s.conflict).uninitFault = s.uninitFault := rfl
@[simp] theorem State.conflict_busFault : (s.conflict).busFault = s.busFault := rfl
@[simp] theorem State.conflict_schedule : (s.conflict).schedule = s.schedule := rfl
@[simp] theorem State.conflict_response : (s.conflict).response = s.response := rfl
@[simp] theorem State.conflict_draws : (s.conflict).draws = s.draws := rfl

/-! ## `State.pokeW` -/

@[simp] theorem State.pokeW_w (i : WReg) (j : Fin 16) (v : Word) : (s.pokeW i j v).w = s.w.set i (setLimb s.w[i] j v) := rfl
@[simp] theorem State.pokeW_pt (i : WReg) (j : Fin 16) (v : Word) : (s.pokeW i j v).pt = s.pt := rfl
@[simp] theorem State.pokeW_flags (i : WReg) (j : Fin 16) (v : Word) : (s.pokeW i j v).flags = s.flags := rfl
@[simp] theorem State.pokeW_status (i : WReg) (j : Fin 16) (v : Word) : (s.pokeW i j v).status = s.status := rfl
@[simp] theorem State.pokeW_cmd (i : WReg) (j : Fin 16) (v : Word) : (s.pokeW i j v).cmd = s.cmd := rfl
@[simp] theorem State.pokeW_wLimbs (i : WReg) (j : Fin 16) (v : Word) : (s.pokeW i j v).wLimbs = s.wLimbs.set i (s.wLimbs[i] ||| BitVec.twoPow 16 j.val) := rfl
@[simp] theorem State.pokeW_ptLimbs (i : WReg) (j : Fin 16) (v : Word) : (s.pokeW i j v).ptLimbs = s.ptLimbs := rfl
@[simp] theorem State.pokeW_uninitFault (i : WReg) (j : Fin 16) (v : Word) : (s.pokeW i j v).uninitFault = s.uninitFault := rfl
@[simp] theorem State.pokeW_busFault (i : WReg) (j : Fin 16) (v : Word) : (s.pokeW i j v).busFault = s.busFault := rfl
@[simp] theorem State.pokeW_schedule (i : WReg) (j : Fin 16) (v : Word) : (s.pokeW i j v).schedule = s.schedule := rfl
@[simp] theorem State.pokeW_response (i : WReg) (j : Fin 16) (v : Word) : (s.pokeW i j v).response = s.response := rfl
@[simp] theorem State.pokeW_draws (i : WReg) (j : Fin 16) (v : Word) : (s.pokeW i j v).draws = s.draws := rfl

/-! ## `State.pokePT` -/

@[simp] theorem State.pokePT_w (i : PReg) (c : Fin 3) (j : Fin 16) (v : Word) : (s.pokePT i c j v).w = s.w := rfl
@[simp] theorem State.pokePT_pt (i : PReg) (c : Fin 3) (j : Fin 16) (v : Word) : (s.pokePT i c j v).pt = s.pt.set i (s.pt[i].setCoord c (setLimb (s.pt[i].coord c) j v)) := rfl
@[simp] theorem State.pokePT_flags (i : PReg) (c : Fin 3) (j : Fin 16) (v : Word) : (s.pokePT i c j v).flags = s.flags := rfl
@[simp] theorem State.pokePT_status (i : PReg) (c : Fin 3) (j : Fin 16) (v : Word) : (s.pokePT i c j v).status = s.status := rfl
@[simp] theorem State.pokePT_cmd (i : PReg) (c : Fin 3) (j : Fin 16) (v : Word) : (s.pokePT i c j v).cmd = s.cmd := rfl
@[simp] theorem State.pokePT_wLimbs (i : PReg) (c : Fin 3) (j : Fin 16) (v : Word) : (s.pokePT i c j v).wLimbs = s.wLimbs := rfl
@[simp] theorem State.pokePT_ptLimbs (i : PReg) (c : Fin 3) (j : Fin 16) (v : Word) : (s.pokePT i c j v).ptLimbs = s.ptLimbs.set i (s.ptLimbs[i] ||| BitVec.twoPow 48 (16 * c.val + j.val)) := rfl
@[simp] theorem State.pokePT_uninitFault (i : PReg) (c : Fin 3) (j : Fin 16) (v : Word) : (s.pokePT i c j v).uninitFault = s.uninitFault := rfl
@[simp] theorem State.pokePT_busFault (i : PReg) (c : Fin 3) (j : Fin 16) (v : Word) : (s.pokePT i c j v).busFault = s.busFault := rfl
@[simp] theorem State.pokePT_schedule (i : PReg) (c : Fin 3) (j : Fin 16) (v : Word) : (s.pokePT i c j v).schedule = s.schedule := rfl
@[simp] theorem State.pokePT_response (i : PReg) (c : Fin 3) (j : Fin 16) (v : Word) : (s.pokePT i c j v).response = s.response := rfl
@[simp] theorem State.pokePT_draws (i : PReg) (c : Fin 3) (j : Fin 16) (v : Word) : (s.pokePT i c j v).draws = s.draws := rfl

/-! ## `State.refuseAccess` -/

@[simp] theorem State.refuseAccess_w (a : Addr) : (s.refuseAccess a).w = s.w := rfl
@[simp] theorem State.refuseAccess_pt (a : Addr) : (s.refuseAccess a).pt = s.pt := rfl
@[simp] theorem State.refuseAccess_flags (a : Addr) : (s.refuseAccess a).flags = s.flags := rfl
@[simp] theorem State.refuseAccess_status (a : Addr) : (s.refuseAccess a).status = s.status := rfl
@[simp] theorem State.refuseAccess_cmd (a : Addr) : (s.refuseAccess a).cmd = s.cmd := rfl
@[simp] theorem State.refuseAccess_wLimbs (a : Addr) : (s.refuseAccess a).wLimbs = s.wLimbs := rfl
@[simp] theorem State.refuseAccess_ptLimbs (a : Addr) : (s.refuseAccess a).ptLimbs = s.ptLimbs := rfl
@[simp] theorem State.refuseAccess_uninitFault (a : Addr) : (s.refuseAccess a).uninitFault = s.uninitFault := rfl
@[simp] theorem State.refuseAccess_busFault (a : Addr) : (s.refuseAccess a).busFault = true := rfl
@[simp] theorem State.refuseAccess_schedule (a : Addr) : (s.refuseAccess a).schedule = s.schedule := rfl
@[simp] theorem State.refuseAccess_response (a : Addr) : (s.refuseAccess a).response = .busError a := rfl
@[simp] theorem State.refuseAccess_draws (a : Addr) : (s.refuseAccess a).draws = s.draws := rfl

/-! ## `State.withSchedule` -/

@[simp] theorem State.withSchedule_w (es : List Event) : (s.withSchedule es).w = s.w := rfl
@[simp] theorem State.withSchedule_pt (es : List Event) : (s.withSchedule es).pt = s.pt := rfl
@[simp] theorem State.withSchedule_flags (es : List Event) : (s.withSchedule es).flags = s.flags := rfl
@[simp] theorem State.withSchedule_status (es : List Event) : (s.withSchedule es).status = s.status := rfl
@[simp] theorem State.withSchedule_cmd (es : List Event) : (s.withSchedule es).cmd = s.cmd := rfl
@[simp] theorem State.withSchedule_wLimbs (es : List Event) : (s.withSchedule es).wLimbs = s.wLimbs := rfl
@[simp] theorem State.withSchedule_ptLimbs (es : List Event) : (s.withSchedule es).ptLimbs = s.ptLimbs := rfl
@[simp] theorem State.withSchedule_uninitFault (es : List Event) : (s.withSchedule es).uninitFault = s.uninitFault := rfl
@[simp] theorem State.withSchedule_busFault (es : List Event) : (s.withSchedule es).busFault = s.busFault := rfl
@[simp] theorem State.withSchedule_schedule (es : List Event) : (s.withSchedule es).schedule = es := rfl
@[simp] theorem State.withSchedule_response (es : List Event) : (s.withSchedule es).response = s.response := rfl
@[simp] theorem State.withSchedule_draws (es : List Event) : (s.withSchedule es).draws = s.draws := rfl

/-! ## STATUS at acceptance and completion -/

@[simp] theorem Status.accepted_busy (st : Status) : (st.accepted).busy = true := rfl
@[simp] theorem Status.accepted_done (st : Status) : (st.accepted).done = false := rfl
@[simp] theorem Status.accepted_err (st : Status) : (st.accepted).err = false := rfl
@[simp] theorem Status.accepted_conflict (st : Status) : (st.accepted).conflict = st.conflict := rfl
@[simp] theorem Status.accepted_errcode (st : Status) : (st.accepted).errcode = none := rfl
@[simp] theorem Status.completed_busy (st : Status) : (st.completed).busy = false := rfl
@[simp] theorem Status.completed_done (st : Status) : (st.completed).done = true := rfl
@[simp] theorem Status.completed_err (st : Status) : (st.completed).err = st.err := rfl
@[simp] theorem Status.completed_conflict (st : Status) : (st.completed).conflict = st.conflict := rfl
@[simp] theorem Status.completed_errcode (st : Status) : (st.completed).errcode = st.errcode := rfl
@[simp] theorem Status.failed_busy (st : Status) (e : CmdError) : (st.failed e).busy = false := rfl
@[simp] theorem Status.failed_done (st : Status) (e : CmdError) : (st.failed e).done = true := rfl
@[simp] theorem Status.failed_err (st : Status) (e : CmdError) : (st.failed e).err = true := rfl
@[simp] theorem Status.failed_conflict (st : Status) (e : CmdError) : (st.failed e).conflict = st.conflict := rfl
@[simp] theorem Status.failed_errcode (st : Status) (e : CmdError) : (st.failed e).errcode = some e := rfl

/-! ## Completion of each shape of write -/

@[simp] theorem State.complete_toW_w (d : WReg) (v : Value) : (s.complete (Writes.toW d v)).w = s.w.set d v := rfl
@[simp] theorem State.complete_toW_pt (d : WReg) (v : Value) : (s.complete (Writes.toW d v)).pt = s.pt := rfl
@[simp] theorem State.complete_toW_flags (d : WReg) (v : Value) : (s.complete (Writes.toW d v)).flags = s.flags := rfl
@[simp] theorem State.complete_toW_status (d : WReg) (v : Value) : (s.complete (Writes.toW d v)).status = s.status.completed := rfl
@[simp] theorem State.complete_toW_cmd (d : WReg) (v : Value) : (s.complete (Writes.toW d v)).cmd = s.cmd := rfl
@[simp] theorem State.complete_toW_wLimbs (d : WReg) (v : Value) : (s.complete (Writes.toW d v)).wLimbs = s.wLimbs.set d (BitVec.allOnes 16) := rfl
@[simp] theorem State.complete_toW_ptLimbs (d : WReg) (v : Value) : (s.complete (Writes.toW d v)).ptLimbs = s.ptLimbs := rfl
@[simp] theorem State.complete_toW_uninitFault (d : WReg) (v : Value) : (s.complete (Writes.toW d v)).uninitFault = s.uninitFault := rfl
@[simp] theorem State.complete_toW_busFault (d : WReg) (v : Value) : (s.complete (Writes.toW d v)).busFault = s.busFault := rfl
@[simp] theorem State.complete_toW_schedule (d : WReg) (v : Value) : (s.complete (Writes.toW d v)).schedule = s.schedule := rfl
@[simp] theorem State.complete_toW_response (d : WReg) (v : Value) : (s.complete (Writes.toW d v)).response = s.response := rfl
@[simp] theorem State.complete_toW_draws (d : WReg) (v : Value) : (s.complete (Writes.toW d v)).draws = s.draws := rfl

@[simp] theorem State.complete_toPT_w (d : PReg) (p : Point) : (s.complete (Writes.toPT d p)).w = s.w := rfl
@[simp] theorem State.complete_toPT_pt (d : PReg) (p : Point) : (s.complete (Writes.toPT d p)).pt = s.pt.set d p := rfl
@[simp] theorem State.complete_toPT_flags (d : PReg) (p : Point) : (s.complete (Writes.toPT d p)).flags = s.flags := rfl
@[simp] theorem State.complete_toPT_status (d : PReg) (p : Point) : (s.complete (Writes.toPT d p)).status = s.status.completed := rfl
@[simp] theorem State.complete_toPT_cmd (d : PReg) (p : Point) : (s.complete (Writes.toPT d p)).cmd = s.cmd := rfl
@[simp] theorem State.complete_toPT_wLimbs (d : PReg) (p : Point) : (s.complete (Writes.toPT d p)).wLimbs = s.wLimbs := rfl
@[simp] theorem State.complete_toPT_ptLimbs (d : PReg) (p : Point) : (s.complete (Writes.toPT d p)).ptLimbs = s.ptLimbs.set d (BitVec.allOnes 48) := rfl
@[simp] theorem State.complete_toPT_uninitFault (d : PReg) (p : Point) : (s.complete (Writes.toPT d p)).uninitFault = s.uninitFault := rfl
@[simp] theorem State.complete_toPT_busFault (d : PReg) (p : Point) : (s.complete (Writes.toPT d p)).busFault = s.busFault := rfl
@[simp] theorem State.complete_toPT_schedule (d : PReg) (p : Point) : (s.complete (Writes.toPT d p)).schedule = s.schedule := rfl
@[simp] theorem State.complete_toPT_response (d : PReg) (p : Point) : (s.complete (Writes.toPT d p)).response = s.response := rfl
@[simp] theorem State.complete_toPT_draws (d : PReg) (p : Point) : (s.complete (Writes.toPT d p)).draws = s.draws := rfl

@[simp] theorem State.complete_toSlot_w (d : Slot) (v : Value) (p : Point) : (s.complete (Writes.toSlot d v p)).w = s.w.set (slotW d) v := rfl
@[simp] theorem State.complete_toSlot_pt (d : Slot) (v : Value) (p : Point) : (s.complete (Writes.toSlot d v p)).pt = s.pt.set (slotPT d) p := rfl
@[simp] theorem State.complete_toSlot_flags (d : Slot) (v : Value) (p : Point) : (s.complete (Writes.toSlot d v p)).flags = s.flags := rfl
@[simp] theorem State.complete_toSlot_status (d : Slot) (v : Value) (p : Point) : (s.complete (Writes.toSlot d v p)).status = s.status.completed := rfl
@[simp] theorem State.complete_toSlot_cmd (d : Slot) (v : Value) (p : Point) : (s.complete (Writes.toSlot d v p)).cmd = s.cmd := rfl
@[simp] theorem State.complete_toSlot_wLimbs (d : Slot) (v : Value) (p : Point) : (s.complete (Writes.toSlot d v p)).wLimbs = s.wLimbs.set (slotW d) (BitVec.allOnes 16) := rfl
@[simp] theorem State.complete_toSlot_ptLimbs (d : Slot) (v : Value) (p : Point) : (s.complete (Writes.toSlot d v p)).ptLimbs = s.ptLimbs.set (slotPT d) (BitVec.allOnes 48) := rfl
@[simp] theorem State.complete_toSlot_uninitFault (d : Slot) (v : Value) (p : Point) : (s.complete (Writes.toSlot d v p)).uninitFault = s.uninitFault := rfl
@[simp] theorem State.complete_toSlot_busFault (d : Slot) (v : Value) (p : Point) : (s.complete (Writes.toSlot d v p)).busFault = s.busFault := rfl
@[simp] theorem State.complete_toSlot_schedule (d : Slot) (v : Value) (p : Point) : (s.complete (Writes.toSlot d v p)).schedule = s.schedule := rfl
@[simp] theorem State.complete_toSlot_response (d : Slot) (v : Value) (p : Point) : (s.complete (Writes.toSlot d v p)).response = s.response := rfl
@[simp] theorem State.complete_toSlot_draws (d : Slot) (v : Value) (p : Point) : (s.complete (Writes.toSlot d v p)).draws = s.draws := rfl

@[simp] theorem State.complete_flags_w (f : Flags) : (s.complete { flags := some f }).w = s.w := rfl
@[simp] theorem State.complete_flags_pt (f : Flags) : (s.complete { flags := some f }).pt = s.pt := rfl
@[simp] theorem State.complete_flags_flags (f : Flags) : (s.complete { flags := some f }).flags = f := rfl
@[simp] theorem State.complete_flags_status (f : Flags) : (s.complete { flags := some f }).status = s.status.completed := rfl
@[simp] theorem State.complete_flags_cmd (f : Flags) : (s.complete { flags := some f }).cmd = s.cmd := rfl
@[simp] theorem State.complete_flags_wLimbs (f : Flags) : (s.complete { flags := some f }).wLimbs = s.wLimbs := rfl
@[simp] theorem State.complete_flags_ptLimbs (f : Flags) : (s.complete { flags := some f }).ptLimbs = s.ptLimbs := rfl
@[simp] theorem State.complete_flags_uninitFault (f : Flags) : (s.complete { flags := some f }).uninitFault = s.uninitFault := rfl
@[simp] theorem State.complete_flags_busFault (f : Flags) : (s.complete { flags := some f }).busFault = s.busFault := rfl
@[simp] theorem State.complete_flags_schedule (f : Flags) : (s.complete { flags := some f }).schedule = s.schedule := rfl
@[simp] theorem State.complete_flags_response (f : Flags) : (s.complete { flags := some f }).response = s.response := rfl
@[simp] theorem State.complete_flags_draws (f : Flags) : (s.complete { flags := some f }).draws = s.draws := rfl

@[simp] theorem State.finish_ok (wr : Writes) : s.finish (.ok wr) = s.complete wr := rfl
@[simp] theorem State.finish_error (e : CmdError) : s.finish (.error e) = s.fail e := rfl

end Sys2Proof.Machine
end

