-- ==== Sys2Proof/Laws/Bus.lean ====
section
/-! SUPPORT. The register window (20_memory.md): where each location stands, limbs as bits of their value, and what
one access does to the block. -/

namespace Sys2Proof.Machine

/-! ## The address map (R51, R52) -/

theorem locate_wAddr (i : WReg) (j : Fin 16) : locate (wAddr i j) = .w i j := by
  revert i j; decide +kernel

theorem locate_ptAddr (i : PReg) (c : Fin 3) (j : Fin 16) : locate (ptAddr i c j) = .pt i c j := by
  revert i c j; decide +kernel

theorem locate_romAddr (r : Fin 5) (j : Fin 16) : locate (romAddr r j) = .rom r j := by
  revert r j; decide +kernel

theorem wAddr_toNat (i : WReg) (j : Fin 16) : (wAddr i j).toNat = 0x1000 + 0x40 * i.val + 4 * j.val := by
  simp only [wAddr, BitVec.toNat_ofNat]; omega

theorem ptAddr_toNat (i : PReg) (c : Fin 3) (j : Fin 16) :
    (ptAddr i c j).toNat = 0x2000 + 0xC0 * i.val + 0x40 * c.val + 4 * j.val := by
  simp only [ptAddr, BitVec.toNat_ofNat]; omega

theorem romAddr_toNat (r : Fin 5) (j : Fin 16) : (romAddr r j).toNat = 0x3000 + 0x40 * r.val + 4 * j.val := by
  simp only [romAddr, BitVec.toNat_ofNat]; omega

/-- Only the address of CMD is CMD's. -/
theorem eq_cmdAddr_of_locate {a : Addr} (h : locate a = .cmd) : a = cmdAddr := by
  unfold locate at h
  simp only [] at h
  repeat' split at h
  all_goals first | (simp at h; done) | skip
  apply BitVec.eq_of_toNat_eq
  simpa [cmdAddr] using ‹a.toNat = 0x0004›

/-- Only the address of CTRL is CTRL's. -/
theorem eq_ctrlAddr_of_locate {a : Addr} (h : locate a = .ctrl) : a = ctrlAddr := by
  unfold locate at h
  simp only [] at h
  repeat' split at h
  all_goals first | (simp at h; done) | skip
  apply BitVec.eq_of_toNat_eq
  simpa [ctrlAddr] using ‹a.toNat = 0x0010›

theorem locate_cmdAddr : locate cmdAddr = .cmd := by decide

theorem locate_statusAddr : locate statusAddr = .status := by decide

theorem locate_flagsAddr : locate flagsAddr = .flags := by decide

theorem locate_ctrlAddr : locate ctrlAddr = .ctrl := by decide

/-- The bus takes exactly the 32-bit accesses at multiples of 4 (R55). -/
theorem accessOk_iff (a : Addr) (width : Nat) : accessOk a width = true ↔ width = 32 ∧ a.toNat % 4 = 0 := by
  simp only [accessOk, Bool.and_eq_true, beq_iff_eq, ← BitVec.toNat_inj, BitVec.extractLsb'_toNat]
  simp

theorem accessOk_wAddr (i : WReg) (j : Fin 16) : accessOk (wAddr i j) 32 = true := by
  revert i j; decide +kernel

theorem accessOk_ptAddr (i : PReg) (c : Fin 3) (j : Fin 16) : accessOk (ptAddr i c j) 32 = true := by
  revert i c j; decide +kernel

/-! ## Initialised marks (70_reset_and_hazards.md R282) -/

/-- A W register is initialised when all its limbs count as written. -/
theorem State.wMarked_iff (s : State) (i : WReg) :
    s.wMarked i = true ↔ ∀ k : Fin 16, s.wLimbs[i].getLsbD k.val = true := by
  rw [State.wMarked, beq_iff_eq]
  refine ⟨fun h k => ?_, fun h => BitVec.eq_of_getLsbD_eq fun n hn => ?_⟩
  · rw [h, BitVec.getLsbD_allOnes]; simp
  · rw [h ⟨n, hn⟩, BitVec.getLsbD_allOnes]; simp [hn]

/-- A PT register is initialised when all limbs of its three coordinates count as written. -/
theorem State.ptMarked_iff (s : State) (i : PReg) :
    s.ptMarked i = true ↔ ∀ (d : Fin 3) (k : Fin 16), s.ptLimbs[i].getLsbD (16 * d.val + k.val) = true := by
  rw [State.ptMarked, beq_iff_eq]
  refine ⟨fun h d k => ?_, fun h => BitVec.eq_of_getLsbD_eq fun n hn => ?_⟩
  · rw [h, BitVec.getLsbD_allOnes, decide_eq_true_iff]; omega
  · have := h ⟨n / 16, by omega⟩ ⟨n % 16, by omega⟩
    simp only [Nat.div_add_mod] at this
    rw [this, BitVec.getLsbD_allOnes]; simp [hn]

/-! ## Limbs (R52) -/

theorem getLsbD_limb (v : Value) (j : Fin 16) (b : Nat) (hb : b < 32) :
    (limb v j).getLsbD b = v.getLsbD (32 * j.val + b) := by
  simp [limb, hb]

theorem getLsbD_setLimb (v : Value) (j : Fin 16) (x : Word) (n : Nat) (hn : n < 512) :
    (setLimb v j x).getLsbD n =
      if 32 * j.val ≤ n ∧ n < 32 * j.val + 32 then x.getLsbD (n - 32 * j.val) else v.getLsbD n := by
  have hj := j.isLt
  have hm : ∀ k, k < 512 → (0xFFFFFFFF#512).getLsbD k = decide (k < 32) := by decide +kernel
  simp only [setLimb, BitVec.getLsbD_or, BitVec.getLsbD_and, BitVec.getLsbD_not, BitVec.getLsbD_shiftLeft,
    BitVec.getLsbD_setWidth, BitVec.ofNat_eq_ofNat]
  by_cases h1 : n < 32 * j.val
  · simp [h1, hn, show ¬(32 * j.val ≤ n) by omega]
  · rw [hm _ (by omega)]
    by_cases h2 : n < 32 * j.val + 32
    · simp [h1, h2, hn, show n - 32 * j.val < 32 by omega, show n - 32 * j.val < 512 by omega, show 32 * j.val ≤ n by omega]
    · simp [h1, h2, hn, show ¬(n - 32 * j.val < 32) by omega, BitVec.getLsbD_of_ge x (n - 32 * j.val) (by omega)]

/-- Writing a limb replaces that limb and leaves the other fifteen. -/
theorem limb_setLimb (v : Value) (j k : Fin 16) (x : Word) :
    limb (setLimb v j x) k = if k = j then x else limb v k := by
  apply BitVec.eq_of_getLsbD_eq
  intro b hb
  have hk := k.isLt
  rw [getLsbD_limb _ _ _ hb, getLsbD_setLimb _ _ _ _ (by omega)]
  by_cases h : k = j
  · subst h
    simp [hb]
  · have : k.val ≠ j.val := Fin.val_ne_of_ne h
    rw [if_neg (by omega), if_neg h, getLsbD_limb _ _ _ hb]

/-- A value is its sixteen limbs. -/
theorem value_ext {a b : Value} (h : ∀ j, limb a j = limb b j) : a = b := by
  apply BitVec.eq_of_getLsbD_eq
  intro n hn
  have hj := congrArg (fun w : Word => w.getLsbD (n % 32)) (h ⟨n / 32, by omega⟩)
  simp only [getLsbD_limb _ _ _ (Nat.mod_lt n (show 0 < 32 by omega))] at hj
  rwa [Nat.div_add_mod] at hj

@[simp] theorem Point.coord_setCoord_same (p : Point) (c : Fin 3) (v : Value) : (p.setCoord c v).coord c = v := by
  revert c; simp [Fin.forall_fin_succ, Point.coord, Point.setCoord]

theorem Point.coord_setCoord_other (p : Point) {c d : Fin 3} (h : d ≠ c) (v : Value) :
    (p.setCoord c v).coord d = p.coord d := by
  revert c d; simp [Fin.forall_fin_succ, Point.coord, Point.setCoord]

/-- A point is its three coordinates. -/
theorem Point.ext_coord {p q : Point} (h : ∀ c, p.coord c = q.coord c) : p = q := by
  have h0 := h 0
  have h1 := h 1
  have h2 := h 2
  cases p; cases q
  simp_all [Point.coord]

/-! ## One access (R53, R55, R57) -/

variable (s : State)

/-- A refused access changes nothing of the block but the recorded host fault. -/
theorem State.busRead_refused {a : Addr} {width : Nat} (h : accessOk a width = false) :
    s.busRead a width = s.refuseAccess a := by simp [State.busRead, h]

theorem State.busWrite_refused {a : Addr} {width : Nat} (v : Word) (h : accessOk a width = false) :
    s.busWrite a width v = s.refuseAccess a := by simp [State.busWrite, h]

theorem State.busWrite_taken {a : Addr} (v : Word) (h : accessOk a 32 = true) :
    s.busWrite a 32 v = { s.writeAt (locate a) v with response := .written a } := by simp [State.busWrite, h]

/-- A read changes `response`, `draws` and the recorded host fault only, and never clears a recorded fault. -/
theorem State.busRead_frame (a : Addr) (width : Nat) :
    ∃ r n b, s.busRead a width = { s with response := r, draws := n, busFault := b } ∧
      (s.busFault = true → b = true) := by
  unfold State.busRead
  split
  · split
    · exact ⟨_, _, _, rfl, id⟩
    · exact ⟨_, _, _, rfl, id⟩
  · exact ⟨_, _, _, rfl, fun _ => rfl⟩

/-- The host's read of an initialised W register of an idle block answers the limb. -/
theorem State.busRead_w {i : WReg} {j : Fin 16} (hb : s.status.busy = false) (hm : s.wMarked i = true) :
    s.busRead (wAddr i j) 32 = { s with response := .data (wAddr i j) (limb s.w[i] j) } := by
  simp [State.busRead, accessOk_wAddr, locate_wAddr, State.drawsAt, hb, hm, State.stored, State.storedAt]

/-- The host's read of an initialised PT register of an idle block answers the limb. -/
theorem State.busRead_pt {i : PReg} {c : Fin 3} {j : Fin 16} (hb : s.status.busy = false) (hm : s.ptMarked i = true) :
    s.busRead (ptAddr i c j) 32 = { s with response := .data (ptAddr i c j) (limb (s.pt[i].coord c) j) } := by
  simp [State.busRead, accessOk_ptAddr, locate_ptAddr, State.drawsAt, hb, hm, State.stored, State.storedAt]

/-- The host's limb write to an idle block. -/
theorem State.busWrite_w {i : WReg} {j : Fin 16} (v : Word) (hb : s.status.busy = false) :
    s.busWrite (wAddr i j) 32 v = { s.pokeW i j v with response := .written (wAddr i j) } := by
  simp [State.busWrite, accessOk_wAddr, locate_wAddr, State.writeAt, hb]

theorem State.busWrite_pt {i : PReg} {c : Fin 3} {j : Fin 16} (v : Word) (hb : s.status.busy = false) :
    s.busWrite (ptAddr i c j) 32 v = { s.pokePT i c j v with response := .written (ptAddr i c j) } := by
  simp [State.busWrite, accessOk_ptAddr, locate_ptAddr, State.writeAt, hb]

/-- The host's command write to an idle block is its acceptance (60_exceptions.md R255). -/
theorem State.busWrite_cmd_idle (v : Word) (hb : s.status.busy = false) :
    s.busWrite cmdAddr 32 v = { s.accept v with response := .written cmdAddr } := by
  simp [State.busWrite, show accessOk cmdAddr 32 = true by decide, locate_cmdAddr, State.writeAt, hb]

/-- A write to a running block changes no register, no mark, no flag and not CMD, unless it resets the block. -/
theorem State.writeAt_busy (l : Loc) (v : Word) (hb : s.status.busy = true) (hl : l ≠ .ctrl) :
    ∃ st, s.writeAt l v = { s with status := st } ∧ st.busy = true := by
  cases l <;> simp_all [State.writeAt, State.conflict, State.writeStatus, Status.clearedBy] <;>
    first | exact ⟨_, rfl, rfl⟩ | exact ⟨_, rfl, hb⟩

end Sys2Proof.Machine
end

