-- ==== Sys2Proof/Laws/Encoding.lean ====
section
/-! SUPPORT. The fields of an encoded word, one by one (30_encoding.md R81, R82). Rewrite with these: unfolding a word
of large shifts inside a definitional check is slow. -/

namespace Sys2Proof

/-- A field of the word of a number. -/
theorem field_ofNat (x start len : Nat) :
    ((BitVec.ofNat 32 x).extractLsb' start len).toNat = x % 2 ^ 32 / 2 ^ start % 2 ^ len := by
  rw [BitVec.extractLsb'_toNat, BitVec.toNat_ofNat, Nat.shiftRight_eq_div_pow]

/-- The five fields of the word of a number. -/
theorem opField_ofNat (x : Nat) : opField (BitVec.ofNat 32 x) = x % 2 ^ 32 / 2 ^ 0 % 2 ^ 8 := field_ofNat x 0 8
theorem dField_ofNat (x : Nat) : (dField (BitVec.ofNat 32 x)).val = x % 2 ^ 32 / 2 ^ 8 % 2 ^ 4 := field_ofNat x 8 4
theorem aField_ofNat (x : Nat) : (aField (BitVec.ofNat 32 x)).val = x % 2 ^ 32 / 2 ^ 12 % 2 ^ 4 := field_ofNat x 12 4
theorem bField_ofNat (x : Nat) : (bField (BitVec.ofNat 32 x)).val = x % 2 ^ 32 / 2 ^ 16 % 2 ^ 4 := field_ofNat x 16 4
theorem immField_ofNat (x : Nat) : (immField (BitVec.ofNat 32 x)).toNat = x % 2 ^ 32 / 2 ^ 20 % 2 ^ 12 :=
  field_ofNat x 20 12

section RFormat

variable {op d a b : Nat} (ho : op < 256) (hd : d < 16) (ha : a < 16) (hb : b < 16)

include ho in
theorem opField_rWord : opField (rWord op d a b) = op := by rw [rWord, opField_ofNat]; omega

include ho hd in
theorem dField_rWord : (dField (rWord op d a b)).val = d := by rw [rWord, dField_ofNat]; omega

include ho hd ha in
theorem aField_rWord : (aField (rWord op d a b)).val = a := by rw [rWord, aField_ofNat]; omega

include ho hd ha hb in
theorem bField_rWord : (bField (rWord op d a b)).val = b := by rw [rWord, bField_ofNat]; omega

include ho hd ha hb in
theorem immField_rWord : immField (rWord op d a b) = 0 := by
  apply BitVec.eq_of_toNat_eq
  rw [rWord, immField_ofNat, show (0 : Imm12).toNat = 0 from rfl]
  omega

end RFormat

section IFormat

variable {op d a : Nat} (imm : Imm12) (ho : op < 256) (hd : d < 16) (ha : a < 16)

include ho in
theorem opField_iWord : opField (iWord op d a imm) = op := by rw [iWord, opField_ofNat]; omega

include ho hd in
theorem dField_iWord : (dField (iWord op d a imm)).val = d := by rw [iWord, dField_ofNat]; omega

include ho hd ha in
theorem aField_iWord : (aField (iWord op d a imm)).val = a := by rw [iWord, aField_ofNat]; omega

include ho hd ha in
theorem bField_iWord : (bField (iWord op d a imm)).val = 0 := by rw [iWord, bField_ofNat]; omega

include ho hd ha in
theorem immField_iWord : immField (iWord op d a imm) = imm := by
  have h := imm.isLt
  apply BitVec.eq_of_toNat_eq
  rw [iWord, immField_ofNat]
  omega

end IFormat

end Sys2Proof
end

