-- ==== Sys2Proof/Laws/Ops.lean ====
section
/-! SUPPORT. What the shared operations do, said once: operand reads, register writes, and the two ways a command
completes. Later proofs cite these and do not unfold the operations. -/

namespace Sys2Proof.Machine

variable (s : State)

/-! ## Operand reads -/

/-- An initialised register gives its content (70_reset_and_hazards.md R282). -/
theorem State.srcW_of_marked {i : WReg} (h : s.wMarked i = true) : s.srcW i = s.w[i] := by simp [State.srcW, h]

/-- An initialised register gives its content. -/
theorem State.srcPT_of_marked {i : PReg} (h : s.ptMarked i = true) : s.srcPT i = s.pt[i] := by simp [State.srcPT, h]

/-! ## Register writes -/

@[simp] theorem State.putW_same (i : WReg) (v : Value) : (s.putW i v).w[i] = v := by simp [State.putW]

theorem State.putW_other {i k : WReg} (h : i ≠ k) (v : Value) : (s.putW i v).w[k] = s.w[k] := by
  simp [State.putW, Fin.val_ne_of_ne h]

@[simp] theorem State.putW_marked (i : WReg) (v : Value) : (s.putW i v).wMarked i = true := by
  simp [State.putW, State.wMarked]

theorem State.putW_wLimbs_other {i k : WReg} (h : i ≠ k) (v : Value) : (s.putW i v).wLimbs[k] = s.wLimbs[k] := by
  simp [State.putW, Fin.val_ne_of_ne h]

@[simp] theorem State.putPT_same (i : PReg) (p : Point) : (s.putPT i p).pt[i] = p := by simp [State.putPT]

theorem State.putPT_other {i k : PReg} (h : i ≠ k) (p : Point) : (s.putPT i p).pt[k] = s.pt[k] := by
  simp [State.putPT, Fin.val_ne_of_ne h]

@[simp] theorem State.putPT_marked (i : PReg) (p : Point) : (s.putPT i p).ptMarked i = true := by
  simp [State.putPT, State.ptMarked]

theorem State.putPT_ptLimbs_other {i k : PReg} (h : i ≠ k) (p : Point) :
    (s.putPT i p).ptLimbs[k] = s.ptLimbs[k] := by
  simp [State.putPT, Fin.val_ne_of_ne h]

/-! ## Completion (60_exceptions.md R253, R254) -/

/-- Everything a completion without error can change. -/
theorem State.complete_unchangedExcept (wr : Writes) :
    UnchangedExcept s (s.complete wr) (wr.w.map Prod.fst) (wr.pt.map Prod.fst) := by
  obtain ⟨w, pt, flags⟩ := wr
  constructor <;> rcases w with _ | ⟨i, v⟩ <;> rcases pt with _ | ⟨j, p⟩ <;> rcases flags with _ | f <;>
    simp +contextual [State.complete, State.perform, State.putW, State.putPT, Fin.val_inj]

/-- STATUS after a completion without error. -/
theorem State.complete_completedOk (wr : Writes) : CompletedOk s (s.complete wr) := ⟨rfl, rfl, rfl, rfl, rfl⟩

/-- FLAGS after a completion without error. -/
theorem State.complete_flags (wr : Writes) : (s.complete wr).flags = wr.flags.getD s.flags := by
  obtain ⟨w, pt, flags⟩ := wr
  rcases w with _ | ⟨i, v⟩ <;> rcases pt with _ | ⟨j, p⟩ <;> rcases flags with _ | f <;> rfl

/-- An error completion changes nothing but STATUS. -/
theorem State.fail_unchangedExcept (e : CmdError) : UnchangedExcept s (s.fail e) none none := by
  constructor <;> simp

/-- STATUS after an error completion. -/
theorem State.fail_completedErr (e : CmdError) : CompletedErr s (s.fail e) e := ⟨rfl, rfl, rfl, rfl, rfl⟩

/-! ## From an equation of `exec` to how the command ends -/

variable {s} {i : Instr}

theorem WritesW.of_exec {d : WReg} {v : Value} (h : exec i s = .next (s.finish (.ok (Writes.toW d v)))) :
    WritesW i s d v :=
  ⟨_, h, by simp, by simp [State.wMarked], s.complete_completedOk _, rfl, s.complete_unchangedExcept _⟩

theorem WritesPT.of_exec {d : PReg} {p : Point} (h : exec i s = .next (s.finish (.ok (Writes.toPT d p)))) :
    WritesPT i s d p :=
  ⟨_, h, by simp, by simp [State.ptMarked], s.complete_completedOk _, rfl, s.complete_unchangedExcept _⟩

theorem WritesSlot.of_exec {d : Slot} {v : Value} {p : Point}
    (h : exec i s = .next (s.finish (.ok (Writes.toSlot d v p)))) : WritesSlot i s d v p :=
  ⟨_, h, by simp, by simp [State.wMarked], by simp, by simp [State.ptMarked], s.complete_completedOk _, rfl,
    s.complete_unchangedExcept _⟩

theorem WritesFlags.of_exec {f : Flags} (h : exec i s = .next (s.finish (.ok { flags := some f }))) :
    WritesFlags i s f :=
  ⟨_, h, rfl, s.complete_completedOk _, s.complete_unchangedExcept _⟩

theorem FailsWith.of_exec {e : CmdError} (h : exec i s = .next (s.finish (.error e))) : FailsWith i s e :=
  ⟨_, h, s.fail_completedErr e, rfl, s.fail_unchangedExcept e⟩

end Sys2Proof.Machine
end

