-- ==== Sys2Proof/Laws/Exec.lean ====
section
/-! SUPPORT. What running a command, the core's turn and a step can do, said once. -/

namespace Sys2Proof.Machine

/-- The pseudocode of a command ended in `r`, and `r` is of the command's shape: on success it writes exactly the
named destinations, and FLAGS only for CMP; an error is one of its row in 60_exceptions.md R251. -/
structure OfShape (i : Instr) (r : Except CmdError Writes) : Prop where
  w : ∀ wr, r = .ok wr → wr.w.map Prod.fst = destW i
  pt : ∀ wr, r = .ok wr → wr.pt.map Prod.fst = destPT i
  flags : ∀ wr, r = .ok wr → wr.flags.isSome = isCmp i
  error : i.wellFormed = true → ∀ e, r = .error e → e ∈ possibleErrors i

/-- A command that writes and cannot fail. -/
theorem OfShape.ok {i : Instr} {wr : Writes} (hw : wr.w.map Prod.fst = destW i) (hp : wr.pt.map Prod.fst = destPT i)
    (hf : wr.flags.isSome = isCmp i) : OfShape i (.ok wr) where
  w := by rintro _ ⟨⟩; exact hw
  pt := by rintro _ ⟨⟩; exact hp
  flags := by rintro _ ⟨⟩; exact hf
  error := by rintro _ _ ⟨⟩

/-- A command that ends with an error of its row. -/
theorem OfShape.err {i : Instr} {e : CmdError} (h : i.wellFormed = true → e ∈ possibleErrors i) :
    OfShape i (.error e) where
  w := by rintro _ ⟨⟩
  pt := by rintro _ ⟨⟩
  flags := by rintro _ ⟨⟩
  error := by rintro hi _ ⟨⟩; exact h hi

/-- `inverse_mod` raises DIV_BY_ZERO or NOT_INVERTIBLE (40_integer.md R115). -/
theorem inverseMod_error {a m : Value} {e : CmdError} (h : inverseMod a m = .error e) :
    (m = 0 ∧ e = .divByZero) ∨ (m ≠ 0 ∧ a % m = 0 ∧ e = .notInvertible) := by
  unfold inverseMod at h
  split at h
  · next hm => exact .inl ⟨hm, by cases h; rfl⟩
  · next hm =>
    split at h
    · next ha => exact .inr ⟨hm, ha, by cases h; rfl⟩
    · cases h

theorem P_ne_zero : P ≠ 0 := by decide +kernel

/-- `to_affine` raises NOT_INVERTIBLE only (42_point.md R157). -/
theorem toAffine_error {p : Point} {e : CmdError} (h : toAffine p = .error e) : e = .notInvertible := by
  unfold toAffine at h
  split at h
  · next hi =>
    cases h
    rcases inverseMod_error hi with h | h
    · exact absurd h.1 P_ne_zero
    · exact h.2.2
  · cases h

/-- The range check raises OPERAND_RANGE only (42_point.md R151). -/
theorem checkRange_error {p : Point} {e : CmdError} (h : checkRange p = .error e) : e = .operandRange := by
  unfold checkRange at h
  split at h <;> cases h
  rfl

/-- KDRV's errors (44_key.md R202). -/
theorem derivedPoint_error {a b : Slot} {s : State} {e : CmdError} (h : derivedPoint a b s = .error e) :
    e = .cannotDerive ∨ e = .operandRange ∨ e = .notInvertible := by
  unfold derivedPoint at h
  split at h
  · next hd =>
    cases h
    unfold deriveOperands at hd
    split at hd
    · cases hd
    · split at hd <;> cases hd
      exact .inl rfl
  · split at h
    · next hc => cases h; exact .inr (.inl (checkRange_error hc))
    · exact .inr (.inr (toAffine_error h))

/-- Two states give a command the same operands: its sources, as the first state picks them, read alike. -/
structure SameOperands (i : Instr) (s t : State) : Prop where
  w : ∀ r, Source.w r ∈ sources i s → t.srcW r = s.srcW r
  pt : ∀ r, Source.pt r ∈ sources i s → t.srcPT r = s.srcPT r

theorem SameOperands.refl (i : Instr) (s : State) : SameOperands i s s := ⟨fun _ _ => rfl, fun _ _ => rfl⟩

/-- KDRV reads the points its scalars pick (44_key.md R202, 70_reset_and_hazards.md R295). -/
theorem derivedPoint_congr {d a b : Slot} {s t : State} (h : SameOperands (.kdrv d a b) s t) :
    derivedPoint a b t = derivedPoint a b s := by
  have ha := h.w (slotW a) (by simp [sources])
  have hb := h.w (slotW b) (by simp [sources])
  have : deriveOperands a b t = deriveOperands a b s := by
    unfold deriveOperands
    rw [ha, hb]
    split
    · next h1 => rw [h.pt (slotPT b) (by rw [sources, if_pos h1]; simp)]
    · next h1 =>
      split
      · next h2 => rw [h.pt (slotPT a) (by rw [sources, if_neg h1, if_pos h2]; simp)]
      · rfl
  rw [derivedPoint, derivedPoint, this]

/-- The inversion lemma of `exec`: every command completes, with a result of its shape, and the result is the same in
every state that gives the command the same operands. -/
theorem exec_finishes_alike (i : Instr) (s t : State) (h : SameOperands i s t) :
    ∃ r, exec i s = .next (s.finish r) ∧ exec i t = .next (t.finish r) ∧ OfShape i r := by
  cases i with
  | add d a b =>
    exact ⟨_, rfl, by simp only [exec, execAdd, h.w a (by simp [sources]), h.w b (by simp [sources])], .ok rfl rfl rfl⟩
  | sub d a b =>
    exact ⟨_, rfl, by simp only [exec, execSub, h.w a (by simp [sources]), h.w b (by simp [sources])], .ok rfl rfl rfl⟩
  | mul d a b =>
    exact ⟨_, rfl, by simp only [exec, execMul, h.w a (by simp [sources]), h.w b (by simp [sources])], .ok rfl rfl rfl⟩
  | div d a b =>
    refine ⟨_, rfl, by simp only [exec, execDiv, h.w a (by simp [sources]), h.w b (by simp [sources])], ?_⟩
    split
    · exact .err fun _ => by simp [possibleErrors]
    · exact .ok rfl rfl rfl
  | rem d a b =>
    refine ⟨_, rfl, by simp only [exec, execRem, h.w a (by simp [sources]), h.w b (by simp [sources])], ?_⟩
    split
    · exact .err fun _ => by simp [possibleErrors]
    · exact .ok rfl rfl rfl
  | and d a b =>
    exact ⟨_, rfl, by simp only [exec, execAnd, h.w a (by simp [sources]), h.w b (by simp [sources])], .ok rfl rfl rfl⟩
  | or d a b =>
    exact ⟨_, rfl, by simp only [exec, execOr, h.w a (by simp [sources]), h.w b (by simp [sources])], .ok rfl rfl rfl⟩
  | xor d a b =>
    exact ⟨_, rfl, by simp only [exec, execXor, h.w a (by simp [sources]), h.w b (by simp [sources])], .ok rfl rfl rfl⟩
  | shl d a b =>
    exact ⟨_, rfl, by simp only [exec, execShl, h.w a (by simp [sources]), h.w b (by simp [sources])], .ok rfl rfl rfl⟩
  | shr d a b =>
    exact ⟨_, rfl, by simp only [exec, execShr, h.w a (by simp [sources]), h.w b (by simp [sources])], .ok rfl rfl rfl⟩
  | shli d a imm =>
    exact ⟨_, rfl, by simp only [exec, execShli, h.w a (by simp [sources])], .ok rfl rfl rfl⟩
  | shri d a imm =>
    exact ⟨_, rfl, by simp only [exec, execShri, h.w a (by simp [sources])], .ok rfl rfl rfl⟩
  | cmp a b =>
    exact ⟨_, rfl, by simp only [exec, execCmp, h.w a (by simp [sources]), h.w b (by simp [sources])], .ok rfl rfl rfl⟩
  | cvt64 d a =>
    refine ⟨_, rfl, by simp only [exec, execCvt64, h.w a (by simp [sources])], ?_⟩
    split
    · exact .err fun _ => by simp [possibleErrors]
    · exact .ok rfl rfl rfl
  | invmod d a b =>
    refine ⟨_, rfl, by simp only [exec, execInvmod, h.w a (by simp [sources]), h.w b (by simp [sources])], ?_⟩
    split
    · exact .ok rfl rfl rfl
    · next h => exact .err fun _ => by rcases inverseMod_error h with h | h <;> simp [possibleErrors, h]
  | ldc d idx =>
    refine ⟨_, rfl, rfl, ?_⟩
    split
    · exact .ok rfl rfl rfl
    · next h => exact .err fun hi => absurd (by simpa [Instr.wellFormed, romIndexOk] using hi) h
  | pldg d =>
    exact ⟨_, rfl, rfl, .ok rfl rfl rfl⟩
  | pneg d a =>
    refine ⟨_, rfl, by simp only [exec, execPneg, h.pt a (by simp [sources])], ?_⟩
    split
    · next h => exact .err fun _ => by simp [possibleErrors, checkRange_error h]
    · exact .ok rfl rfl rfl
  | padd d a b =>
    refine ⟨_, rfl, by simp only [exec, execPadd, h.pt a (by simp [sources]), h.pt b (by simp [sources])], ?_⟩
    split
    · next h => exact .err fun _ => by simp [possibleErrors, checkRange_error h]
    · next h => exact .err fun _ => by simp [possibleErrors, checkRange_error h]
    · exact .ok rfl rfl rfl
  | pdbl d a =>
    refine ⟨_, rfl, by simp only [exec, execPdbl, h.pt a (by simp [sources])], ?_⟩
    split
    · next h => exact .err fun _ => by simp [possibleErrors, checkRange_error h]
    · exact .ok rfl rfl rfl
  | paff d a =>
    refine ⟨_, rfl, by simp only [exec, execPaff, h.pt a (by simp [sources])], ?_⟩
    split
    · next h => exact .err fun _ => by simp [possibleErrors, checkRange_error h]
    · split
      · next h => exact .err fun _ => by simp [possibleErrors, toAffine_error h]
      · exact .ok rfl rfl rfl
  | smul d a b =>
    refine ⟨_, rfl, by simp only [exec, execSmul, h.pt a (by simp [sources]), h.w b (by simp [sources])], ?_⟩
    split
    · next h => exact .err fun _ => by simp [possibleErrors, checkRange_error h]
    · exact .ok rfl rfl rfl
  | kpub d a =>
    refine ⟨_, rfl, by simp only [exec, execKpub, h.w a (by simp [sources])], ?_⟩
    split
    · next h => exact .err fun _ => by simp [possibleErrors, toAffine_error h]
    · exact .ok rfl rfl rfl
  | kdrv d a b =>
    refine ⟨_, rfl, by simp only [exec, execKdrv, derivedPoint_congr h], ?_⟩
    split
    · next h => exact .err fun _ => by rcases derivedPoint_error h with h | h | h <;> simp [possibleErrors, h]
    · exact .ok rfl rfl rfl
  | pack d a =>
    exact ⟨_, rfl, by simp only [exec, execPack, h.pt a (by simp [sources])], .ok rfl rfl rfl⟩
  | unpack d a =>
    exact ⟨_, rfl, by simp only [exec, execUnpack, h.w a (by simp [sources])], .ok rfl rfl rfl⟩

/-- Every command completes, with a result of its shape. -/
theorem exec_finishes (i : Instr) (s : State) : ∃ r, exec i s = .next (s.finish r) ∧ OfShape i r := by
  obtain ⟨r, h, -, hr⟩ := exec_finishes_alike i s s (.refl i s)
  exact ⟨r, h, hr⟩

/-- The core's turn always answers a next state, and a running command has then completed or failed. -/
theorem coreTurn_next (s : State) :
    (s.status.busy = false ∧ coreTurn s = .next s) ∨
    (s.status.busy = true ∧ ∃ r, coreTurn s = .next (s.finish r)) := by
  unfold coreTurn
  cases hb : s.status.busy with
  | false => exact .inl ⟨rfl, by simp⟩
  | true =>
    refine .inr ⟨rfl, ?_⟩
    simp only [if_true]
    unfold runCommand
    cases decode s.cmd with
    | ok i => obtain ⟨r, hr, -⟩ := exec_finishes i s; exact ⟨r, hr⟩
    | error e => exact ⟨.error (decodeFailure e), rfl⟩

/-- A completed command has BUSY 0 and DONE 1, and no completion touches a recorded fault. -/
theorem State.finish_status (s : State) (r : Except CmdError Writes) :
    (s.finish r).status.busy = false ∧ (s.finish r).status.done = true ∧
      (s.finish r).uninitFault = s.uninitFault ∧ (s.finish r).busFault = s.busFault := by
  cases r with
  | error e => exact ⟨rfl, rfl, rfl, rfl⟩
  | ok wr =>
    exact ⟨rfl, rfl, (s.complete_unchangedExcept wr).uninitFault, (s.complete_unchangedExcept wr).busFault⟩

/-- What a step can be: the core's turn when no event is to come, else the first event. -/
theorem step_cases (s : State) :
    (s.schedule = [] ∧ step s = coreTurn s) ∨
      ∃ e es, s.schedule = e :: es ∧ step s = runEvent e (s.withSchedule es) := by
  cases h : s.schedule with
  | nil => exact .inl ⟨rfl, by simp [step, nextEvent, h]⟩
  | cons e es => exact .inr ⟨e, es, rfl, by simp [step, nextEvent, h]⟩

/-- A step always answers a next state: the core's turn, or one event of the outside world. -/
theorem step_next (s : State) : ∃ t, step s = .next t := by
  unfold step nextEvent
  split
  · rcases coreTurn_next s with ⟨-, h⟩ | ⟨-, r, h⟩ <;> exact ⟨_, h⟩
  · next e es _ =>
    cases e with
    | read a width => exact ⟨_, rfl⟩
    | write a width v => exact ⟨_, rfl⟩
    | hardReset => exact ⟨_, rfl⟩
    | coreTurn => rcases coreTurn_next (s.withSchedule es) with ⟨-, h⟩ | ⟨-, r, h⟩ <;> exact ⟨_, h⟩

end Sys2Proof.Machine
end

