-- ==== Sys2Proof/Laws/Inverse.lean ====
section
/-! SUPPORT. The loop of `inverse_mod` (40_integer.md R114): it ends within its bound (70_reset_and_hazards.md R302),
and for a modulus below 2^256 no product wraps, so each pass keeps the two congruences of the extended Euclidean
algorithm. -/

namespace Sys2Proof.Machine

/-- A value is 0 exactly when its number is. -/
theorem Value.toNat_ne_zero {v : Value} : v.toNat ≠ 0 ↔ v ≠ 0 := by
  rw [Ne, Ne, ← BitVec.toNat_inj]
  simp

/-- One pass on the remainders is one step of Euclid's algorithm: nothing wraps. -/
theorem euclidPass_r (m : Value) (e : Euclid) : (euclidPass m e).r = e.newR := rfl

theorem euclidPass_newR (m : Value) (e : Euclid) : (euclidPass m e).newR.toNat = e.r.toNat % e.newR.toNat := by
  have h : e.newR.toNat * (e.r.toNat / e.newR.toNat) + e.r.toNat % e.newR.toNat = e.r.toNat := Nat.div_add_mod _ _
  have hr := e.r.isLt
  simp only [euclidPass, BitVec.toNat_sub, BitVec.toNat_mul, BitVec.toNat_udiv]
  rw [Nat.mul_comm] at h
  rw [Nat.mod_eq_of_lt (a := _ * _) (by omega)]
  rw [show 2 ^ 512 - e.r.toNat / e.newR.toNat * e.newR.toNat + e.r.toNat = e.r.toNat % e.newR.toNat + 2 ^ 512 by omega,
    Nat.add_mod_right]
  exact Nat.mod_eq_of_lt (lt_of_le_of_lt (Nat.mod_le _ _) hr)

/-- Passes compose: the loop is the pass, iterated until `new_r` is 0. -/
theorem euclidLoop_iterate (m : Value) (n : Nat) (e : Euclid) :
    ∃ k ≤ n, euclidLoop m n e = (euclidPass m)^[k] e ∧ (∀ j < k, ((euclidPass m)^[j] e).newR ≠ 0) ∧
      (k < n → ((euclidPass m)^[k] e).newR = 0) := by
  induction n generalizing e with
  | zero => exact ⟨0, le_rfl, rfl, by simp, by simp⟩
  | succ n ih =>
    by_cases h : e.newR = 0
    · exact ⟨0, by omega, by simp [euclidLoop, h], by simp, fun _ => h⟩
    · obtain ⟨k, hk, he, hn, hz⟩ := ih (euclidPass m e)
      refine ⟨k + 1, by omega, by rw [euclidLoop, if_neg h, he, Function.iterate_succ_apply], fun j hj => ?_, fun hk => ?_⟩
      · cases j with
        | zero => exact h
        | succ j => exact hn j (by omega)
      · exact hz (by omega)

/-- Two passes at least halve `new_r`. -/
theorem euclidPass_twice (m : Value) (e : Euclid) :
    2 * (euclidPass m (euclidPass m e)).newR.toNat ≤ e.newR.toNat ∨ (euclidPass m e).newR = 0 := by
  by_cases hz : (euclidPass m e).newR = 0
  · exact .inr hz
  by_cases hn : e.newR.toNat = 0
  · left
    rw [euclidPass_newR, euclidPass_r, hn]
    simp
  left
  have h1 := euclidPass_newR m e
  have h2 : (euclidPass m e).newR.toNat ≠ 0 := Value.toNat_ne_zero.2 hz
  have h3 := Nat.mod_lt e.r.toNat (Nat.pos_of_ne_zero hn)
  rw [euclidPass_newR, euclidPass_r]
  rw [h1] at h2 ⊢
  generalize e.r.toNat % e.newR.toNat = c at *
  generalize e.newR.toNat = b at *
  have h4 := Nat.div_add_mod b c
  have h5 := Nat.mod_lt b (Nat.pos_of_ne_zero h2)
  have h6 : 1 ≤ b / c := (Nat.one_le_div_iff (Nat.pos_of_ne_zero h2)).2 h3.le
  have h7 : c * 1 ≤ c * (b / c) := Nat.mul_le_mul_left _ h6
  omega

/-- With `new_r` below 2^n, the loop reaches 0 within 2n + 1 passes. -/
theorem euclidLoop_newR (m : Value) (n : Nat) (e : Euclid) (h : e.newR.toNat < 2 ^ n) :
    (euclidLoop m (2 * n + 1) e).newR = 0 := by
  induction n generalizing e with
  | zero =>
    have : e.newR = 0 := BitVec.eq_of_toNat_eq (by simpa using h)
    simp [euclidLoop, this]
  | succ n ih =>
    rw [show 2 * (n + 1) + 1 = (2 * n + 1) + 1 + 1 by ring]
    simp only [euclidLoop]
    split
    · assumption
    split
    · assumption
    next h1 =>
    apply ih
    rcases euclidPass_twice m e with h2 | h2
    · omega
    · exact absurd h2 h1

theorem euclidLoop_add (m : Value) (n k : Nat) (e : Euclid) (h : (euclidLoop m n e).newR = 0) :
    euclidLoop m (n + k) e = euclidLoop m n e := by
  induction n generalizing e with
  | zero => cases k <;> simp_all [euclidLoop]
  | succ n ih =>
    rw [show n + 1 + k = (n + k) + 1 by ring]
    simp only [euclidLoop] at h ⊢
    split
    · rfl
    · next hz => exact ih _ (by rwa [if_neg hz] at h)

/-- The limit on the passes never cuts the loop off (R302): `new_r` is 0 at the end, for every input. -/
theorem euclid_ends (m : Value) (e : Euclid) : (euclidLoop m euclidPasses e).newR = 0 := by
  have h := euclidLoop_newR m 512 e e.newR.isLt
  rw [show euclidPasses = 2 * 512 + 1 + 1 from rfl, euclidLoop_add m _ 1 e h]
  exact h

/-- For every modulus that is not 0, both multipliers stay below it, wrapped or not (40_integer.md R115 corner
case 5). -/
theorem euclidLoop_lt {m : Value} (hm : m.toNat ≠ 0) (n : Nat) (e : Euclid) (ht : e.t.toNat < m.toNat)
    (hn : e.newT.toNat < m.toNat) : (euclidLoop m n e).t.toNat < m.toNat := by
  induction n generalizing e with
  | zero => exact ht
  | succ n ih =>
    rw [euclidLoop]
    split
    · exact ht
    · refine ih _ hn ?_
      simp only [euclidPass, BitVec.toNat_umod]
      exact Nat.mod_lt _ (Nat.pos_of_ne_zero hm)

/-- The values of the loop stand for the extended Euclidean algorithm of `a` and `m`: both multipliers are below the
modulus, each remainder is its multiplier times `a` modulo `m`, and the greatest common divisor stays. -/
structure EuclidInv (a m : Value) (e : Euclid) : Prop where
  t_lt : e.t.toNat < m.toNat
  newT_lt : e.newT.toNat < m.toNat
  r_lt : e.r.toNat ≤ m.toNat
  r : a.toNat * e.t.toNat ≡ e.r.toNat [MOD m.toNat]
  newR : a.toNat * e.newT.toNat ≡ e.newR.toNat [MOD m.toNat]
  gcd : Nat.gcd e.r.toNat e.newR.toNat = Nat.gcd a.toNat m.toNat

theorem euclidStart_inv (a m : Value) (hm : 2 ≤ m.toNat) : EuclidInv a m (euclidStart a m) where
  t_lt := by simp [euclidStart]; omega
  newT_lt := by simp [euclidStart]; omega
  r_lt := by simpa [euclidStart] using (Nat.mod_lt _ (by omega)).le
  r := by simp [euclidStart, Nat.ModEq]
  newR := by simp [euclidStart, Nat.ModEq]
  gcd := by simp only [euclidStart, BitVec.toNat_umod]; rw [← Nat.gcd_rec, Nat.gcd_comm]

/-- The multiplier update without wrapping, for a modulus below 2^256. -/
theorem euclidPass_newT {m : Value} {e : Euclid} (hm : m.toNat < 2 ^ 256) (ht : e.t.toNat < m.toNat)
    (hn : e.newT.toNat < m.toNat) :
    (euclidPass m e).newT.toNat =
      (e.t.toNat + (m.toNat - e.r.toNat / e.newR.toNat % m.toNat) * e.newT.toNat) % m.toNat := by
  have hq := Nat.mod_lt (e.r.toNat / e.newR.toNat) (show 0 < m.toNat by omega)
  have hb : (m.toNat - e.r.toNat / e.newR.toNat % m.toNat) * e.newT.toNat ≤ 2 ^ 256 * (2 ^ 256 - 1) :=
    Nat.mul_le_mul (by omega) (by omega)
  simp only [euclidPass, BitVec.toNat_umod, BitVec.toNat_add, BitVec.toNat_mul, BitVec.toNat_sub, BitVec.toNat_udiv]
  generalize e.r.toNat / e.newR.toNat % m.toNat = q at *
  rw [show 2 ^ 512 - q + m.toNat = (m.toNat - q) + 2 ^ 512 by omega, Nat.add_mod_right,
    Nat.mod_eq_of_lt (a := m.toNat - q) (by omega)]
  rw [Nat.mod_eq_of_lt (a := (m.toNat - q) * e.newT.toNat) (by omega)]
  rw [Nat.mod_eq_of_lt (a := e.t.toNat + _) (by omega)]

theorem euclidPass_inv {a m : Value} {e : Euclid} (hm : m.toNat < 2 ^ 256)
    (h : EuclidInv a m e) (hr : e.newR.toNat ≤ m.toNat) : EuclidInv a m (euclidPass m e) where
  t_lt := h.newT_lt
  newT_lt := by
    rw [euclidPass_newT hm h.t_lt h.newT_lt]
    exact Nat.mod_lt _ (by have := h.t_lt; omega)
  r_lt := hr
  r := h.newR
  newR := by
    rw [euclidPass_newT hm h.t_lt h.newT_lt, euclidPass_newR]
    have hq := Nat.mod_lt (e.r.toNat / e.newR.toNat) (show 0 < m.toNat by have := h.t_lt; omega)
    have h1 : ((e.r.toNat / e.newR.toNat % m.toNat : Nat) : Int) ≡ (e.r.toNat / e.newR.toNat : Nat) [ZMOD m.toNat] := by
      rw [Int.natCast_emod]; exact Int.mod_modEq _ _
    have h2 : ((e.r.toNat % e.newR.toNat : Nat) : Int) = e.r.toNat - e.newR.toNat * (e.r.toNat / e.newR.toNat : Nat) := by
      have := congrArg (Nat.cast : Nat → Int) (Nat.div_add_mod e.r.toNat e.newR.toNat)
      push_cast at this ⊢
      linarith
    rw [← Int.natCast_modEq_iff, h2]
    have h3 : ((a.toNat * ((e.t.toNat + (m.toNat - e.r.toNat / e.newR.toNat % m.toNat) * e.newT.toNat) % m.toNat) : Nat) : Int) ≡
        a.toNat * (e.t.toNat + (m.toNat - (e.r.toNat / e.newR.toNat % m.toNat : Nat)) * e.newT.toNat) [ZMOD m.toNat] := by
      push_cast [Nat.cast_sub hq.le]
      exact Int.ModEq.mul_left _ (Int.mod_modEq _ _)
    have hr' := (Int.natCast_modEq_iff.2 h.r)
    have hn' := (Int.natCast_modEq_iff.2 h.newR)
    push_cast at hr' hn'
    refine h3.trans ?_
    have h4 : (a.toNat : Int) * (e.t.toNat + (m.toNat - (e.r.toNat / e.newR.toNat % m.toNat : Nat)) * e.newT.toNat) =
        a.toNat * e.t.toNat + (m.toNat - (e.r.toNat / e.newR.toNat % m.toNat : Nat)) * (a.toNat * e.newT.toNat) := by ring
    rw [h4]
    have h5 : (m.toNat : Int) - (e.r.toNat / e.newR.toNat % m.toNat : Nat) ≡ 0 - (e.r.toNat / e.newR.toNat : Nat) [ZMOD m.toNat] :=
      Int.ModEq.sub (by simp [Int.ModEq]) h1
    exact (hr'.add (h5.mul hn')).trans (by ring_nf; rfl)
  gcd := by
    rw [euclidPass_newR, euclidPass_r, ← h.gcd, Nat.gcd_comm e.r.toNat, Nat.gcd_comm e.newR.toNat, ← Nat.gcd_rec]

/-- What the loop leaves, for a modulus from 2 to 2^256 (40_integer.md R115 corner cases 1, 2 and 5): the last `r` is
the greatest common divisor, and `t` is its multiplier. -/
theorem euclidLoop_inv {a m : Value} (hm : m.toNat < 2 ^ 256) (n : Nat) (e : Euclid) (h : EuclidInv a m e)
    (hr : e.newR.toNat ≤ m.toNat) : EuclidInv a m (euclidLoop m n e) := by
  induction n generalizing e with
  | zero => exact h
  | succ n ih =>
    simp only [euclidLoop]
    split
    · exact h
    · next hz =>
      refine ih _ (euclidPass_inv hm h hr) ?_
      rw [euclidPass_newR]
      exact (Nat.mod_lt _ (Nat.pos_of_ne_zero (Value.toNat_ne_zero.2 hz))).le.trans hr

end Sys2Proof.Machine
end

