-- ==== Sys2Proof/Laws/Field.lean ====
section
/-! SUPPORT. The field operations as arithmetic modulo the field prime (00_scope.md R12: no intermediate value reaches
2^512), and the range of every point operation (42_point.md R150). -/

namespace Sys2Proof.Machine

theorem P_toNat : P.toNat = fieldPrime := by decide +kernel

theorem fieldPrime_lt : fieldPrime < 2 ^ 224 := by decide +kernel

theorem fieldPrime_pos : 0 < fieldPrime := by decide +kernel

theorem mod_P_lt (v : Value) : (v % P).toNat < fieldPrime := by
  rw [BitVec.toNat_umod, P_toNat]
  exact Nat.mod_lt _ fieldPrime_pos

theorem fadd_toNat {x y : Value} (hx : x.toNat < fieldPrime) (hy : y.toNat < fieldPrime) :
    (fadd x y).toNat = (x.toNat + y.toNat) % fieldPrime := by
  have := fieldPrime_lt
  rw [fadd, BitVec.toNat_umod, BitVec.toNat_add, P_toNat, Nat.mod_eq_of_lt (a := _ + _) (by omega)]

theorem fsub_toNat {x y : Value} (hx : x.toNat < fieldPrime) (hy : y.toNat < fieldPrime) :
    (fsub x y).toNat = (x.toNat + fieldPrime - y.toNat) % fieldPrime := by
  have := fieldPrime_lt
  rw [fsub, BitVec.toNat_umod, BitVec.toNat_sub, BitVec.toNat_add, P_toNat,
    Nat.mod_eq_of_lt (a := x.toNat + _) (by omega),
    show 2 ^ 512 - y.toNat + (x.toNat + fieldPrime) = x.toNat + fieldPrime - y.toNat + 2 ^ 512 by omega,
    Nat.add_mod_right, Nat.mod_eq_of_lt (a := _ - _) (by omega)]

/-- A product of two values below 2^224 does not wrap. -/
theorem mul_lt_width {x y : Nat} (hx : x < fieldPrime) (hy : y < fieldPrime) : x * y < 2 ^ 512 := by
  have h := Nat.mul_le_mul (show x ≤ 2 ^ 224 by have := fieldPrime_lt; omega)
    (show y ≤ 2 ^ 224 by have := fieldPrime_lt; omega)
  omega

theorem fmul_toNat {x y : Value} (hx : x.toNat < fieldPrime) (hy : y.toNat < fieldPrime) :
    (fmul x y).toNat = x.toNat * y.toNat % fieldPrime := by
  rw [fmul, BitVec.toNat_umod, BitVec.toNat_mul, P_toNat, Nat.mod_eq_of_lt (a := _ * _) (mul_lt_width hx hy)]

theorem fsq_toNat {x : Value} (hx : x.toNat < fieldPrime) : (fsq x).toNat = x.toNat ^ 2 % fieldPrime := by
  rw [fsq, fmul_toNat hx hx, pow_two]

/-- The small multiples 2, 3 and 8 of the formulas. -/
theorem fsmall_toNat {k x : Value} (hk : k.toNat ≤ 8) (hx : x.toNat < fieldPrime) :
    (fsmall k x).toNat = k.toNat * x.toNat % fieldPrime := by
  have := fieldPrime_lt
  have h := Nat.mul_le_mul hk hx.le
  rw [fsmall, BitVec.toNat_umod, BitVec.toNat_mul, P_toNat, Nat.mod_eq_of_lt (a := _ * _) (by omega)]

theorem fadd_lt (x y : Value) : (fadd x y).toNat < fieldPrime := mod_P_lt _
theorem fsub_lt (x y : Value) : (fsub x y).toNat < fieldPrime := mod_P_lt _
theorem fmul_lt (x y : Value) : (fmul x y).toNat < fieldPrime := mod_P_lt _
theorem fsq_lt (x : Value) : (fsq x).toNat < fieldPrime := mod_P_lt _
theorem fsmall_lt (k x : Value) : (fsmall k x).toNat < fieldPrime := mod_P_lt _

/-! ## The same as congruences of integers -/

theorem fadd_modEq {x y : Value} (hx : x.toNat < fieldPrime) (hy : y.toNat < fieldPrime) :
    ((fadd x y).toNat : Int) ≡ x.toNat + y.toNat [ZMOD fieldPrime] := by
  rw [fadd_toNat hx hy]
  push_cast
  exact Int.mod_modEq _ _

theorem fsub_modEq {x y : Value} (hx : x.toNat < fieldPrime) (hy : y.toNat < fieldPrime) :
    ((fsub x y).toNat : Int) ≡ x.toNat - y.toNat [ZMOD fieldPrime] := by
  rw [fsub_toNat hx hy, Int.natCast_mod, Nat.cast_sub (by omega)]
  refine (Int.mod_modEq _ _).trans ?_
  push_cast
  rw [add_sub_right_comm]
  exact Int.add_modEq_right

theorem fmul_modEq {x y : Value} (hx : x.toNat < fieldPrime) (hy : y.toNat < fieldPrime) :
    ((fmul x y).toNat : Int) ≡ x.toNat * y.toNat [ZMOD fieldPrime] := by
  rw [fmul_toNat hx hy]
  push_cast
  exact Int.mod_modEq _ _

theorem fsq_modEq {x : Value} (hx : x.toNat < fieldPrime) :
    ((fsq x).toNat : Int) ≡ (x.toNat : Int) ^ 2 [ZMOD fieldPrime] := by
  rw [fsq_toNat hx]
  push_cast
  exact Int.mod_modEq _ _

theorem fsmall_modEq {k x : Value} (hk : k.toNat ≤ 8) (hx : x.toNat < fieldPrime) :
    ((fsmall k x).toNat : Int) ≡ k.toNat * x.toNat [ZMOD fieldPrime] := by
  rw [fsmall_toNat hk hx]
  push_cast
  exact Int.mod_modEq _ _

/-- Two values below P are equal exactly when they are congruent (42_point.md R153: `==` is equality in the field). -/
theorem eq_iff_modEq {x y : Value} (hx : x.toNat < fieldPrime) (hy : y.toNat < fieldPrime) :
    x = y ↔ (x.toNat : Int) ≡ y.toNat [ZMOD fieldPrime] := by
  rw [Int.natCast_modEq_iff, Nat.ModEq, Nat.mod_eq_of_lt hx, Nat.mod_eq_of_lt hy, BitVec.toNat_inj]

/-! ## Ranges -/

/-- The range check passes exactly for the points of the field (42_point.md R151). -/
theorem checkRange_ok {p : Point} : checkRange p = .ok () ↔ p.InField := by
  have h : p.inRange = true ↔ p.InField := by
    simp [Point.inRange, Point.InField, BitVec.ult_iff_lt, BitVec.lt_def, P_toNat, and_assoc]
  rw [← h, checkRange]
  split <;> simp_all

theorem checkRange_not {p : Point} (h : ¬ p.InField) : checkRange p = .error .operandRange := by
  have : ¬ checkRange p = .ok () := fun h1 => h (checkRange_ok.1 h1)
  unfold checkRange at this ⊢
  split <;> simp_all

theorem identity_inField : Point.identity.InField := by unfold Point.InField; decide +kernel

theorem base_inField : Point.base.InField := by unfold Point.InField; decide +kernel

/-- Rewrite with these and do not let `rfl` look for a projection of `pneg`: it would compare the Y coordinates. -/
theorem pneg_eq (p : Point) : pneg p = { x := p.x, y := (P - p.y) % P, z := p.z } := rfl

theorem pneg_x (p : Point) : (pneg p).x = p.x := by rw [pneg_eq]

theorem pneg_y (p : Point) : (pneg p).y = (P - p.y) % P := by rw [pneg_eq]

theorem pneg_z (p : Point) : (pneg p).z = p.z := by rw [pneg_eq]

theorem pneg_inField {p : Point} (h : p.InField) : (pneg p).InField := by
  rw [Point.InField, pneg_x, pneg_y, pneg_z]
  exact ⟨h.1, mod_P_lt _, h.2.2⟩

theorem pdbl_inField (p : Point) : (pdbl p).InField := by
  unfold pdbl
  split
  · exact identity_inField
  · exact ⟨fsub_lt _ _, fsub_lt _ _, fsub_lt _ _⟩

theorem paddFormula_inField (z1 z2 u1 u2 s1 s2 : Value) : (paddFormula z1 z2 u1 u2 s1 s2).InField :=
  ⟨fsub_lt _ _, fsub_lt _ _, fmul_lt _ _⟩

end Sys2Proof.Machine
end

