-- ==== Sys2Proof/Laws/PerInstr.lean ====
section
/-! SUPPORT. Per-instruction family `OpcodeField`: the OP field of a command's encoding is its opcode
(30_encoding.md R81, R82, R85), so no other field runs into bits 7 to 0. -/

namespace Sys2Proof.Laws

/-- Bits 7 to 0 of the encoding are the opcode, which fits in them. -/
def OpcodeField.Statement (i : Instr) : Prop := opField (encode i) = i.opcode

theorem OpcodeField.add (d : WReg) (a : WReg) (b : WReg) : OpcodeField.Statement (.add d a b) :=
  opField_rWord (op := 0x01) (by decide)

theorem OpcodeField.sub (d : WReg) (a : WReg) (b : WReg) : OpcodeField.Statement (.sub d a b) :=
  opField_rWord (op := 0x02) (by decide)

theorem OpcodeField.mul (d : WReg) (a : WReg) (b : WReg) : OpcodeField.Statement (.mul d a b) :=
  opField_rWord (op := 0x03) (by decide)

theorem OpcodeField.div (d : WReg) (a : WReg) (b : WReg) : OpcodeField.Statement (.div d a b) :=
  opField_rWord (op := 0x04) (by decide)

theorem OpcodeField.rem (d : WReg) (a : WReg) (b : WReg) : OpcodeField.Statement (.rem d a b) :=
  opField_rWord (op := 0x05) (by decide)

theorem OpcodeField.and (d : WReg) (a : WReg) (b : WReg) : OpcodeField.Statement (.and d a b) :=
  opField_rWord (op := 0x06) (by decide)

theorem OpcodeField.or (d : WReg) (a : WReg) (b : WReg) : OpcodeField.Statement (.or d a b) :=
  opField_rWord (op := 0x07) (by decide)

theorem OpcodeField.xor (d : WReg) (a : WReg) (b : WReg) : OpcodeField.Statement (.xor d a b) :=
  opField_rWord (op := 0x08) (by decide)

theorem OpcodeField.shl (d : WReg) (a : WReg) (b : WReg) : OpcodeField.Statement (.shl d a b) :=
  opField_rWord (op := 0x09) (by decide)

theorem OpcodeField.shr (d : WReg) (a : WReg) (b : WReg) : OpcodeField.Statement (.shr d a b) :=
  opField_rWord (op := 0x0A) (by decide)

theorem OpcodeField.shli (d : WReg) (a : WReg) (imm : Imm12) : OpcodeField.Statement (.shli d a imm) :=
  opField_iWord (op := 0x0B) _ (by decide)

theorem OpcodeField.shri (d : WReg) (a : WReg) (imm : Imm12) : OpcodeField.Statement (.shri d a imm) :=
  opField_iWord (op := 0x0C) _ (by decide)

theorem OpcodeField.cmp (a : WReg) (b : WReg) : OpcodeField.Statement (.cmp a b) :=
  opField_rWord (op := 0x0D) (by decide)

theorem OpcodeField.cvt64 (d : WReg) (a : WReg) : OpcodeField.Statement (.cvt64 d a) :=
  opField_rWord (op := 0x0E) (by decide)

theorem OpcodeField.invmod (d : WReg) (a : WReg) (b : WReg) : OpcodeField.Statement (.invmod d a b) :=
  opField_rWord (op := 0x0F) (by decide)

theorem OpcodeField.ldc (d : WReg) (idx : Imm12) : OpcodeField.Statement (.ldc d idx) :=
  opField_iWord (op := 0x10) _ (by decide)

theorem OpcodeField.pldg (d : PReg) : OpcodeField.Statement (.pldg d) :=
  opField_rWord (op := 0x11) (by decide)

theorem OpcodeField.pneg (d : PReg) (a : PReg) : OpcodeField.Statement (.pneg d a) :=
  opField_rWord (op := 0x20) (by decide)

theorem OpcodeField.padd (d : PReg) (a : PReg) (b : PReg) : OpcodeField.Statement (.padd d a b) :=
  opField_rWord (op := 0x21) (by decide)

theorem OpcodeField.pdbl (d : PReg) (a : PReg) : OpcodeField.Statement (.pdbl d a) :=
  opField_rWord (op := 0x22) (by decide)

theorem OpcodeField.paff (d : PReg) (a : PReg) : OpcodeField.Statement (.paff d a) :=
  opField_rWord (op := 0x23) (by decide)

theorem OpcodeField.smul (d : PReg) (a : PReg) (b : WReg) : OpcodeField.Statement (.smul d a b) :=
  opField_rWord (op := 0x30) (by decide)

theorem OpcodeField.kpub (d : Slot) (a : WReg) : OpcodeField.Statement (.kpub d a) :=
  opField_rWord (op := 0x40) (by decide)

theorem OpcodeField.kdrv (d : Slot) (a : Slot) (b : Slot) : OpcodeField.Statement (.kdrv d a b) :=
  opField_rWord (op := 0x41) (by decide)

theorem OpcodeField.pack (d : WReg) (a : PReg) : OpcodeField.Statement (.pack d a) :=
  opField_rWord (op := 0x42) (by decide)

theorem OpcodeField.unpack (d : Slot) (a : WReg) : OpcodeField.Statement (.unpack d a) :=
  opField_rWord (op := 0x43) (by decide)

end Sys2Proof.Laws
end

