-- ==== Sys2Proof/Laws/Scalar.lean ====
section
/-! SUPPORT. The parts of the scalar multiplier (43_scalar.md): the table's entries, the size of a digit, one digit's
addition, and the leading zero digits. -/

namespace Sys2Proof.Machine

/-! ## The reduced scalar (R181) -/

theorem reduceScalar_eq {k : Value} {m : Nat} (h : k.toNat % N.toNat = m) : reduceScalar k = BitVec.ofNat 512 m := by
  apply BitVec.eq_of_toNat_eq
  rw [reduceScalar, BitVec.toNat_umod, h, BitVec.toNat_ofNat]
  refine (Nat.mod_eq_of_lt ?_).symm
  rw [← h]
  exact Nat.lt_of_le_of_lt (Nat.mod_le _ _) k.isLt

/-! ## The table (R182) -/

theorem tableFrom_getD (base : Point) :
    ∀ (n : Nat) (p : Point) (i : Nat), i < n →
      (tableFrom base n p).getD i Point.identity = (fun q => padd q base)^[i] p
  | 0, _, _, h => by omega
  | _ + 1, _, 0, _ => rfl
  | n + 1, p, i + 1, h => by
    rw [Function.iterate_succ_apply]
    simpa [tableFrom] using tableFrom_getD base n (padd p base) i (by omega)

/-- T[i] is i additions of the point to the identity. -/
theorem table_getD (base : Point) {i : Nat} (h : i < 16) :
    (table base).getD i Point.identity = (fun q => padd q base)^[i] Point.identity := by
  unfold table
  exact tableFrom_getD base _ _ i (by simpa [windowBits] using h)

/-! ## The digits (R183) -/

theorem oddDigit_bound {v : Nat} (h : v % 2 = 1) : (oddDigit v).natAbs < 16 := by
  unfold oddDigit windowBits
  dsimp only
  split <;> omega

/-- Every digit names an entry of the table. -/
theorem recodeFrom_bound : ∀ n v, ∀ d ∈ recodeFrom n v, d.natAbs < 16
  | 0, _, d, h => by simp [recodeFrom] at h
  | n + 1, v, d, h => by
    unfold recodeFrom at h
    split at h
    · rcases List.mem_cons.1 h with rfl | h
      · decide
      · exact recodeFrom_bound n _ d h
    · split at h
      · next hv =>
        rcases List.mem_cons.1 h with rfl | h
        · exact oddDigit_bound hv
        · exact recodeFrom_bound n _ d h
      · rcases List.mem_cons.1 h with rfl | h
        · decide
        · exact recodeFrom_bound n _ d h

theorem recode_bound (k : Value) : ∀ d ∈ recode k, d.natAbs < 16 := recodeFrom_bound _ _

/-! ## Accumulation (R184) -/

theorem addDigit_zero (tab : List Point) (acc : Point) : addDigit tab acc 0 = acc := by
  rw [addDigit, if_neg (by decide), if_neg (by decide)]

theorem addDigit_pos (base acc : Point) {d : Int} (h : 0 < d) (hd : d.natAbs < 16) :
    addDigit (table base) acc d = padd acc ((fun q => padd q base)^[d.natAbs] Point.identity) := by
  rw [addDigit, if_pos h, table_getD base hd]

theorem addDigit_neg (base acc : Point) {d : Int} (h : d < 0) (hd : d.natAbs < 16) :
    addDigit (table base) acc d = padd acc (pneg ((fun q => padd q base)^[d.natAbs] Point.identity)) := by
  rw [addDigit, if_neg (by omega), if_pos h, table_getD base hd]

theorem identity_isId : Point.identity.isId = true := by decide +kernel

/-- The identity is neutral on the left (42_point.md R153 step 1). -/
theorem padd_identity_left (q : Point) : padd Point.identity q = q := if_pos identity_isId

/-- The double of an identity is (0, 0, 1) (42_point.md R155). -/
theorem pdbl_of_isId {p : Point} (h : p.isId = true) : pdbl p = Point.identity := if_pos h

/-- Zero digits above the highest nonzero one leave the accumulator at ID. -/
theorem accumulate_zeros (tab : List Point) : ∀ n, accumulate tab (List.replicate n 0) = Point.identity
  | 0 => rfl
  | n + 1 => by rw [List.replicate_succ, accumulate, accumulate_zeros tab n, pdbl_of_isId identity_isId, addDigit_zero]

end Sys2Proof.Machine
end

