-- ==== Sys2Proof/Machine/Assembler.lean ====
section
/-! DEFINITION. The assembler syntax and the pseudo-instructions (30_encoding.md R90, R91). They have no effect on the
block, which sees only the expanded commands. What R90 leaves open is log 18. -/

namespace Sys2Proof.Machine

/-- Why a line is no command. -/
inductive AsmError where
  /-- The first word is no mnemonic of R85 or R91. -/
  | unknownMnemonic
  /-- The operands are not those of the mnemonic, or a pseudo-instruction's condition does not hold. -/
  | badOperands
  deriving DecidableEq, Repr

/-- A word or an operand of a line. -/
abbrev Token := List Char

/-! ## Splitting a line -/

def isBlank (c : Char) : Bool := c == ' ' || c == '\t' || c == '\r' || c == '\n'

def trimFront (t : Token) : Token := t.dropWhile isBlank

def trim (t : Token) : Token := (trimFront (trimFront t).reverse).reverse

/-- The parts between commas. -/
def splitCommas : List Char → List Token
  | [] => [[]]
  | c :: cs =>
    if c = ',' then [] :: splitCommas cs
    else
      match splitCommas cs with
      | t :: ts => (c :: t) :: ts
      | [] => [[c]]

/-- A letter's capital; mnemonics are case-insensitive (R90). -/
def upper (c : Char) : Char := if 'a' ≤ c ∧ c ≤ 'z' then Char.ofNat (c.toNat - 32) else c

/-- `;` starts a comment (R90). -/
def withoutComment (line : List Char) : List Char := line.takeWhile (· ≠ ';')

/-! ## Operand spellings (R90) -/

def decimalDigit (c : Char) : Option Nat := if '0' ≤ c ∧ c ≤ '9' then some (c.toNat - 48) else none

def hexadecimalDigit (c : Char) : Option Nat :=
  if '0' ≤ c ∧ c ≤ '9' then some (c.toNat - 48)
  else if 'a' ≤ c ∧ c ≤ 'f' then some (c.toNat - 87)
  else if 'A' ≤ c ∧ c ≤ 'F' then some (c.toNat - 55)
  else none

/-- The number the digits spell in a base, after the value of those before them. -/
def digitsFrom (base : Nat) (digit : Char → Option Nat) (acc : Nat) : Token → Option Nat
  | [] => some acc
  | c :: cs =>
    match digit c with
    | some d => digitsFrom base digit (acc * base + d) cs
    | none => none

/-- A decimal number with at least one digit. -/
def decimal (t : Token) : Option Nat := if t = [] then none else digitsFrom 10 decimalDigit 0 t

/-- An immediate: decimal, or hexadecimal after `0x`. -/
def immediate (t : Token) : Option Imm12 :=
  let n := match t with
    | '0' :: 'x' :: ds => if ds = [] then none else digitsFrom 16 hexadecimalDigit 0 ds
    | _ => decimal t
  match n with
  | some v => if v < 4096 then some (BitVec.ofNat 12 v) else none
  | none => none

/-- A register or slot name: its letter and its index, without leading zeros. -/
def register (letter : Char) (count : Nat) (t : Token) : Option (Fin count) :=
  match t with
  | c :: ds =>
    if c = letter ∧ (ds.head? ≠ some '0' ∨ ds.length = 1) then
      match decimal ds with
      | some n => if h : n < count then some ⟨n, h⟩ else none
      | none => none
    else none
  | [] => none

def wToken (t : Token) : Option WReg := register 'w' 16 t
def pToken (t : Token) : Option PReg := register 'p' 8 t
def kToken (t : Token) : Option Slot := register 'k' 8 t

/-- LDC's index, by symbol or as a number (R90). -/
def romToken (t : Token) : Option Imm12 :=
  if t = ['P'] then some 0
  else if t = ['A'] then some 1
  else if t = ['G', 'X'] then some 2
  else if t = ['G', 'Y'] then some 3
  else if t = ['N'] then some 4
  else immediate t

/-! ## Operand lists: D, A, then B or IMM12, without the fields of kind `-` (R90) -/

/-- What a mnemonic makes of its operands. -/
abbrev AsmForm := List Token → Option (List Instr)

def asm1 {α : Type} (f : Token → Option α) (mk : α → List Instr) : AsmForm
  | [x] => (f x).map mk
  | _ => none

def asm2 {α β : Type} (f : Token → Option α) (g : Token → Option β) (mk : α → β → List Instr) : AsmForm
  | [x, y] =>
    match f x, g y with
    | some a, some b => some (mk a b)
    | _, _ => none
  | _ => none

def asm3 {α β γ : Type} (f : Token → Option α) (g : Token → Option β) (h : Token → Option γ)
    (mk : α → β → γ → List Instr) : AsmForm
  | [x, y, z] =>
    match f x, g y, h z with
    | some a, some b, some c => some (mk a b c)
    | _, _, _ => none
  | _ => none

/-- MULMOD and ADDMOD: the operation, then REM by the modulus, on condition that d is not m (R91). -/
def asmModular (mk : WReg → WReg → WReg → Instr) : AsmForm
  | [x, y, z, u] =>
    match wToken x, wToken y, wToken z, wToken u with
    | some d, some a, some b, some m => if d = m then none else some [mk d a b, .rem d d m]
    | _, _, _, _ => none
  | _ => none

/-- The mnemonics of R85. -/
def commandForms : List (String × AsmForm) :=
  [("ADD", asm3 wToken wToken wToken fun d a b => [.add d a b]),
   ("SUB", asm3 wToken wToken wToken fun d a b => [.sub d a b]),
   ("MUL", asm3 wToken wToken wToken fun d a b => [.mul d a b]),
   ("DIV", asm3 wToken wToken wToken fun d a b => [.div d a b]),
   ("REM", asm3 wToken wToken wToken fun d a b => [.rem d a b]),
   ("AND", asm3 wToken wToken wToken fun d a b => [.and d a b]),
   ("OR", asm3 wToken wToken wToken fun d a b => [.or d a b]),
   ("XOR", asm3 wToken wToken wToken fun d a b => [.xor d a b]),
   ("SHL", asm3 wToken wToken wToken fun d a b => [.shl d a b]),
   ("SHR", asm3 wToken wToken wToken fun d a b => [.shr d a b]),
   ("SHLI", asm3 wToken wToken immediate fun d a n => [.shli d a n]),
   ("SHRI", asm3 wToken wToken immediate fun d a n => [.shri d a n]),
   ("CMP", asm2 wToken wToken fun a b => [.cmp a b]),
   ("CVT64", asm2 wToken wToken fun d a => [.cvt64 d a]),
   ("INVMOD", asm3 wToken wToken wToken fun d a b => [.invmod d a b]),
   ("LDC", asm2 wToken romToken fun d n => [.ldc d n]),
   ("PLDG", asm1 pToken fun d => [.pldg d]),
   ("PNEG", asm2 pToken pToken fun d a => [.pneg d a]),
   ("PADD", asm3 pToken pToken pToken fun d a b => [.padd d a b]),
   ("PDBL", asm2 pToken pToken fun d a => [.pdbl d a]),
   ("PAFF", asm2 pToken pToken fun d a => [.paff d a]),
   ("SMUL", asm3 pToken pToken wToken fun d a b => [.smul d a b]),
   ("KPUB", asm2 kToken wToken fun d a => [.kpub d a]),
   ("KDRV", asm3 kToken kToken kToken fun d a b => [.kdrv d a b]),
   ("PACK", asm2 wToken pToken fun d a => [.pack d a]),
   ("UNPACK", asm2 kToken wToken fun d a => [.unpack d a])]

/-- The pseudo-instructions and their expansions (R91). -/
def pseudoForms : List (String × AsmForm) :=
  [("MOV", asm2 wToken wToken fun d a => [.or d a a]),
   ("CLR", asm1 wToken fun d => [.xor d d d]),
   ("MULMOD", asmModular .mul),
   ("ADDMOD", asmModular .add),
   ("LDP", asm1 wToken fun d => [.ldc d 0]),
   ("LDN", asm1 wToken fun d => [.ldc d 4])]

/-- The operands after the mnemonic. -/
def operandTokens (rest : List Char) : List Token :=
  if trim rest = [] then [] else (splitCommas rest).map trim

/-- The commands of one line (R90, R91); a line with nothing but a comment has none. -/
def assembleLine (line : List Char) : Except AsmError (List Instr) :=
  let body := trim (withoutComment line)
  if body = [] then .ok []
  else
    let name := (body.takeWhile fun c => !isBlank c).map upper
    match (commandForms ++ pseudoForms).find? (fun f => f.1.toList == name) with
    | none => .error .unknownMnemonic
    | some f =>
      match f.2 (operandTokens (body.dropWhile fun c => !isBlank c)) with
      | some is => .ok is
      | none => .error .badOperands

end Sys2Proof.Machine
end

