-- ==== Sys2Proof/Tests/Slice0.lean ====
section
/-! SUPPORT. Tests on fixed values, their results taken from spec/95_test_vectors.md (the id in each docstring) or by
hand from a rule, and for each obligation with hypotheses a witness that meets them. -/

namespace Sys2Proof.Tests

set_option Elab.async false

open Sys2Proof.Machine

/-! ## Helpers -/

/-- A block whose registers are all initialised, every W at 0x63 and every PT at (0x63, 0x63, 0x63). -/
def ready : State :=
  { State.reset with
    w := Vector.replicate 16 0x63
    pt := Vector.replicate 8 ⟨0x63, 0x63, 0x63⟩
    wLimbs := Vector.replicate 16 (BitVec.allOnes 16)
    ptLimbs := Vector.replicate 8 (BitVec.allOnes 48) }

/-- `ready` with W[2] and W[3] set, the operands of most vectors. -/
def withW (a b : Value) : State := (ready.putW 2 a).putW 3 b

/-- `ready` with PT[0] and PT[1] set. -/
def withPT (p q : Point) : State := (ready.putPT 0 p).putPT 1 q

/-- `ready` with two key slots set. -/
def withSlots (s₀ : Value) (p₀ : Point) (s₁ : Value) (p₁ : Point) : State :=
  (((ready.putW 0 s₀).putPT 0 p₀).putW 1 s₁).putPT 1 p₁

/-- The state with this word accepted and running. -/
def running (s : State) (c : Word) : State := { s with cmd := c, status := s.status.accepted }

/-- The state after a command. -/
def after (i : Instr) (s : State) : Option State :=
  match exec i s with
  | .next t => some t
  | .fault _ | .refused _ => none

/-- W[d], PT[d], FLAGS and STATUS after a command. -/
def wAfter (i : Instr) (s : State) (d : WReg) : Option Value := (after i s).map (·.w[d])
def ptAfter (i : Instr) (s : State) (d : PReg) : Option Point := (after i s).map (·.pt[d])
def flagsAfter (i : Instr) (s : State) : Option Word := (after i s).map (·.flags.word)
def statusAfter (i : Instr) (s : State) : Option Word := (after i s).map (·.status.word)

/-- The state after one step, and after `n`. -/
def stepped (s : State) : Option State :=
  match step s with
  | .next t => some t
  | .fault _ | .refused _ => none

def steps : Nat → State → Option State
  | 0, s => some s
  | n + 1, s => (stepped s).bind (steps n)

/-- The octets of a text. -/
def octets (t : String) : List Byte := t.toList.map fun c => BitVec.ofNat 8 c.toNat

/-- Points of the V-PT table. -/
def G : Point := Point.base
def J2 : Point :=
  { x := 0xa845fc9fc6f4725b129f467d12bc5b8c5867952e1c8071f0b2039029
    y := 0xf6ee2f78f85723c33a99bad5672a2bd07fe4eed675a448d168c3bb77
    z := 0x7a6ec7116bee47f69845bfcd9a86eb41b40e8ec889ab03330a00fc67 }
def A2 : Point :=
  { x := 0x706a46dc76dcb76798e60e6d89474788d16dc18032d268fd1a704fa6
    y := 0x1c2b76a7bc25e7702a704fa986892849fca629487acf3709d2e4e8bb
    z := 1 }
def J3 : Point :=
  { x := 0x6b35bb299d40f73df7d4dca4821904f24d991ee23ebc10785d25ef7e
    y := 0xcdb1d9cd2519f7c47836e3fd2badb68f57bcee313dd8efb10b562b8a
    z := 0x0de5e1332f2ad390ad4b78f0dc1c8404765551dbdca8115c61690e1b }
def A3 : Point :=
  { x := 0xdf1b1d66a551d0d31eff822558b9d2cc75c2180279fe0d08fd896d04
    y := 0xa3f7f03cadd0be444c0aa56830130ddf77d317344e1af3591981a925
    z := 1 }
def GZ : Point :=
  { x := 0xdc3832f5aed2fdfcc84e42e5280f074f5b084488d0ca035845707482
    y := 0xe9bb1c45afb91fda6116ff366a1bad07d03a3b2226ac0ccc2803f19b
    z := 2 }
def NG : Point :=
  { x := 0xb70e0cbd6bb4bf7f321390b94a03c1d356c21122343280d6115c1d21
    y := 0x42c89c774a08dc04b3dd201932bc8a5ea5f8b89bbb2a7e667aff81cd
    z := 1 }

/-- The scalar and public key of the concrete scenario 1. -/
def s1 : Value := 0xaf0181e90420508e39e9d862f1680dc22f5f024fcfc11939d7c6fedb
def pub1 : Point :=
  { x := 0xbcf74addac6c83a587eeb6d2a724158cebaecfed0af82a90434268e0
    y := 0x3c82f21e137c7341a70c0044ed058d5fe6c7aa38eb16542fdf5ae111
    z := 1 }

/-! ## WellFormed: the one check refuses its ill-formed terms -/

/-- R84: 0..4 are legal. -/
theorem test_ldc_index_4_is_well_formed : (Instr.ldc 15 4).wellFormed = true := by decide

/-- R87 item 5. -/
theorem test_ldc_index_5_is_ill_formed : (Instr.ldc 0 5).wellFormed = false := by decide

/-- R87 item 5. -/
theorem test_ldc_index_4095_is_ill_formed : (Instr.ldc 0 4095).wellFormed = false := by decide

/-! ## Decoding: words written out bit by bit from R81, R82 and R85 (IMM12 or zeros, B, A, D, OP) -/

theorem test_decode_add : decode 0b000000000000_0011_0010_0001_00000001#32 = .ok (.add 1 2 3) := by decide

theorem test_decode_sub : decode 0b000000000000_0011_0010_0001_00000010#32 = .ok (.sub 1 2 3) := by decide

theorem test_decode_mul : decode 0b000000000000_0010_0001_0011_00000011#32 = .ok (.mul 3 1 2) := by decide

theorem test_decode_div : decode 0b000000000000_1111_0000_1000_00000100#32 = .ok (.div 8 0 15) := by decide

theorem test_decode_rem : decode 0b000000000000_0000_0011_0011_00000101#32 = .ok (.rem 3 3 0) := by decide

theorem test_decode_and : decode 0b000000000000_0100_0010_0001_00000110#32 = .ok (.and 1 2 4) := by decide

theorem test_decode_or : decode 0b000000000000_0010_0010_1001_00000111#32 = .ok (.or 9 2 2) := by decide

theorem test_decode_xor : decode 0b000000000000_0101_1010_0101_00001000#32 = .ok (.xor 5 10 5) := by decide

theorem test_decode_shl : decode 0b000000000000_0011_0010_0001_00001001#32 = .ok (.shl 1 2 3) := by decide

theorem test_decode_shr : decode 0b000000000000_0001_0010_0011_00001010#32 = .ok (.shr 3 2 1) := by decide

theorem test_decode_shli : decode 0b000011100000_0000_0101_0100_00001011#32 = .ok (.shli 4 5 224) := by decide

theorem test_decode_shri : decode 0b111111111111_0000_0101_0100_00001100#32 = .ok (.shri 4 5 4095) := by decide

theorem test_decode_cmp : decode 0b000000000000_0010_0001_0000_00001101#32 = .ok (.cmp 1 2) := by decide

theorem test_decode_cvt64 : decode 0b000000000000_0000_0010_0001_00001110#32 = .ok (.cvt64 1 2) := by decide

theorem test_decode_invmod : decode 0b000000000000_0000_0001_0100_00001111#32 = .ok (.invmod 4 1 0) := by decide

theorem test_decode_ldc : decode 0b000000000100_0000_0000_1111_00010000#32 = .ok (.ldc 15 4) := by decide

theorem test_decode_pldg : decode 0b000000000000_0000_0000_0111_00010001#32 = .ok (.pldg 7) := by decide

theorem test_decode_pneg : decode 0b000000000000_0000_0001_0111_00100000#32 = .ok (.pneg 7 1) := by decide

theorem test_decode_padd : decode 0b000000000000_0001_0000_0111_00100001#32 = .ok (.padd 7 0 1) := by decide

theorem test_decode_pdbl : decode 0b000000000000_0000_0110_0001_00100010#32 = .ok (.pdbl 1 6) := by decide

theorem test_decode_paff : decode 0b000000000000_0000_0011_0010_00100011#32 = .ok (.paff 2 3) := by decide

theorem test_decode_smul : decode 0b000000000000_1111_0000_0001_00110000#32 = .ok (.smul 1 0 15) := by decide

theorem test_decode_kpub : decode 0b000000000000_0000_1111_0111_01000000#32 = .ok (.kpub 7 15) := by decide

theorem test_decode_kdrv : decode 0b000000000000_0001_0000_0010_01000001#32 = .ok (.kdrv 2 0 1) := by decide

theorem test_decode_pack : decode 0b000000000000_0000_0111_1000_01000010#32 = .ok (.pack 8 7) := by decide

theorem test_decode_unpack : decode 0b000000000000_0000_1001_0010_01000011#32 = .ok (.unpack 2 9) := by decide

/-- V-ENC-25: the opcode is checked before the operands. -/
theorem test_decode_opcode_first : decode 0x00100012 = .error .illegalOpcode := by decide

/-- V-ENC-15 to V-ENC-18. -/
theorem test_decode_reserved_fields :
    decode 0x00100201 = .error .illegalOperand ∧ decode 0x0001540B = .error .illegalOperand ∧
      decode 0x0000010D = .error .illegalOperand ∧ decode 0x0001F00E = .error .illegalOperand := by decide

/-- V-ENC-21 to V-ENC-24. -/
theorem test_decode_index_limits :
    decode 0x00000821 = .error .illegalOperand ∧ decode 0x00080021 = .error .illegalOperand ∧
      decode 0x00080241 = .error .illegalOperand ∧ decode 0x00500010 = .error .illegalOperand := by decide

/-- 0x0E00540B in the byte lanes of R54. -/
theorem test_decode_bytes_little_endian :
    decodeBytes [0x0B, 0x54, 0x00, 0x0E] = .ok (.shli 4 5 224) ∧
      encodeBytes (.shli 4 5 224) = [0x0B, 0x54, 0x00, 0x0E] := by decide

/-- R80: a command is one word. -/
theorem test_decode_bytes_of_other_lengths :
    decodeBytes [] = .error .notOneWord ∧ decodeBytes [1, 2, 3] = .error .notOneWord := by decide

/-- V-ENC-8. -/
theorem test_decode_table_word : decodeTableWord 32 0x00010241 = some (.kdrv 2 0 1) := by decide

/-! ## The integer commands (V-INT, V-SHI, V-CMP, V-CVT, V-INV) -/

/-- V-INT-2. -/
theorem test_add_wraps : wAfter (.add 1 2 3) (withW (BitVec.allOnes 512) 1) 1 = some 0 := by decide +kernel

/-- V-INT-5. -/
theorem test_sub_borrows : wAfter (.sub 1 2 3) (withW 0 1) 1 = some (BitVec.allOnes 512) := by decide +kernel

/-- V-INT-8. -/
theorem test_mul_wraps :
    wAfter (.mul 1 2 3) (withW (BitVec.allOnes 512) (BitVec.allOnes 512)) 1 = some 1 := by decide +kernel

/-- V-INT-7. -/
theorem test_mul_drops_the_high_half :
    wAfter (.mul 1 2 3) (withW (BitVec.twoPow 512 300) (BitVec.twoPow 512 300)) 1 = some 0 := by decide +kernel

/-- V-INT-11. -/
theorem test_div_floors : wAfter (.div 1 2 3) (withW 7 2) 1 = some 3 := by decide +kernel

/-- V-INT-14, V-ERR-4. -/
theorem test_div_by_zero :
    wAfter (.div 1 2 3) (withW 7 0) 1 = some 0x63 ∧ statusAfter (.div 1 2 3) (withW 7 0) = some 0x306 := by decide +kernel

/-- V-INT-16. -/
theorem test_rem_of_p_plus_5 : wAfter (.rem 1 2 3) (withW (P + 5) P) 1 = some 5 := by decide +kernel

/-- V-INT-18. -/
theorem test_rem_by_zero :
    wAfter (.rem 1 2 3) (withW 7 0) 1 = some 0x63 ∧ statusAfter (.rem 1 2 3) (withW 7 0) = some 0x306 := by decide +kernel

/-- V-INT-19. -/
theorem test_and : wAfter (.and 1 2 3) (withW 0xc 0xa) 1 = some 0x8 := by decide +kernel

/-- V-INT-20. -/
theorem test_or : wAfter (.or 1 2 3) (withW 0xc 0xa) 1 = some 0xe := by decide +kernel

/-- V-INT-21. -/
theorem test_xor : wAfter (.xor 1 2 3) (withW 0xc 0xa) 1 = some 0x6 := by decide +kernel

/-- V-INT-24. -/
theorem test_shl_by_511 :
    wAfter (.shl 1 2 3) (withW (BitVec.allOnes 512) 511) 1 = some (BitVec.twoPow 512 511) := by decide +kernel

/-- V-INT-26. -/
theorem test_shl_uses_the_whole_amount :
    wAfter (.shl 1 2 3) (withW 5 (BitVec.twoPow 512 511)) 1 = some 0 := by decide +kernel

/-- V-INT-28. -/
theorem test_shr_by_224 :
    wAfter (.shr 1 2 3) (withW (BitVec.twoPow 512 450) 224) 1 = some (BitVec.twoPow 512 226) := by decide +kernel

/-- V-INT-30. -/
theorem test_shr_by_512 : wAfter (.shr 1 2 3) (withW (BitVec.allOnes 512) 512) 1 = some 0 := by decide +kernel

/-- V-SHI-1. -/
theorem test_shli_by_224 :
    wAfter (.shli 4 5 224) (ready.putW 5 3) 4 = some (3 * (BitVec.twoPow 512 224)) := by decide +kernel

/-- V-SHI-5. -/
theorem test_shli_is_not_masked : wAfter (.shli 4 5 4095) (ready.putW 5 7) 4 = some 0 := by decide +kernel

/-- V-SHI-7. -/
theorem test_shri_by_450 :
    wAfter (.shri 4 5 450) (ready.putW 5 ((BitVec.twoPow 512 450) + 12345)) 4 = some 1 := by decide +kernel

/-- V-SHI-8. -/
theorem test_shri_by_0 :
    wAfter (.shri 4 5 0) (ready.putW 5 (BitVec.allOnes 512)) 4 = some (BitVec.allOnes 512) := by decide +kernel

/-- V-CMP-4, V-CMP-6. -/
theorem test_cmp_is_unsigned :
    flagsAfter (.cmp 2 3) (withW 0 (BitVec.allOnes 512)) = some 2 ∧ flagsAfter (.cmp 2 3) (withW P N) = some 4 := by decide +kernel

/-- V-CMP-3. -/
theorem test_cmp_equal : flagsAfter (.cmp 2 3) (withW 7 7) = some 1 := by decide +kernel

/-- V-CVT-3. -/
theorem test_cvt64_largest :
    wAfter (.cvt64 1 2) (withW ((BitVec.twoPow 512 64) - 1) 0) 1 = some ((BitVec.twoPow 512 64) - 1) := by decide +kernel

/-- V-CVT-4, V-ERR-7. -/
theorem test_cvt64_overflow :
    wAfter (.cvt64 1 2) (withW (BitVec.twoPow 512 64) 0) 1 = some 0x63 ∧
      statusAfter (.cvt64 1 2) (withW (BitVec.twoPow 512 64) 0) = some 0x606 := by decide +kernel

/-- V-INV-14. -/
theorem test_invmod_reduces_first :
    wAfter (.invmod 1 2 3) (withW (P + 2) P) 1 =
      some 0x7fffffffffffffffffffffffffffffff800000000000000000000001 := by decide +kernel

/-- V-INV-9, V-INV-13. -/
theorem test_invmod_of_a_common_factor :
    wAfter (.invmod 1 2 3) (withW 6 9) 1 = some 8 ∧ statusAfter (.invmod 1 2 3) (withW 5 0) = some 0x306 := by decide +kernel

/-! ## The constants (V-CONST) -/

/-- V-CONST-7. -/
theorem test_ldc_n :
    wAfter (.ldc 15 4) State.reset 15 =
      some 0xffffffffffffffffffffffffffff16a2e0b8f03e13dd29455c5c2a3d := by decide +kernel

/-- V-CONST-7. -/
theorem test_ldc_initialises : (after (.ldc 15 4) State.reset).map (·.wMarked 15) = some true := by decide +kernel

/-- V-CONST-6. -/
theorem test_pldg :
    ptAfter (.pldg 0) State.reset 0 =
      some ⟨0xb70e0cbd6bb4bf7f321390b94a03c1d356c21122343280d6115c1d21, 0xbd376388b5f723fb4c22dfe6cd4375a05a07476444d5819985007e34, 1⟩ := by decide +kernel

/-! ## The point commands (V-PT) -/

/-- V-PT-1. -/
theorem test_pneg_of_g : ptAfter (.pneg 7 0) (withPT G G) 7 = some NG := by decide +kernel

/-- V-PT-3. -/
theorem test_pneg_of_y_0 : ptAfter (.pneg 7 0) (withPT ⟨5, 0, 1⟩ G) 7 = some ⟨5, 0, 1⟩ := by decide +kernel

/-- V-PT-14. -/
theorem test_padd_general : ptAfter (.padd 7 0 1) (withPT J2 G) 7 = some J3 := by decide +kernel

/-- V-PT-21, V-PT-22. -/
theorem test_padd_doubles_the_first_operand :
    ptAfter (.padd 7 0 1) (withPT GZ G) 7 = ptAfter (.pdbl 7 0) (withPT GZ G) 7 := by decide +kernel

/-- V-PT-4. -/
theorem test_pdbl_of_g : ptAfter (.pdbl 7 0) (withPT G G) 7 = some J2 := by decide +kernel

/-- V-PT-6. -/
theorem test_pdbl_of_an_identity : ptAfter (.pdbl 7 0) (withPT ⟨0, 0, 9⟩ G) 7 = some ⟨0, 0, 1⟩ := by decide +kernel

/-- V-PT-8. -/
theorem test_paff_of_j2 : ptAfter (.paff 7 0) (withPT J2 G) 7 = some A2 := by decide +kernel

/-- V-PT-25, V-PT-12. -/
theorem test_paff_range_before_inverse :
    statusAfter (.paff 7 0) (withPT ⟨1, 2, P⟩ G) = some 0x706 ∧
      statusAfter (.paff 7 0) (withPT ⟨5, 6, 0⟩ G) = some 0x406 := by decide +kernel

/-! ## Scalar multiplication (V-SM) -/

/-- V-SM-4. -/
theorem test_smul_by_3 : ptAfter (.smul 1 0 2) ((withPT G G).putW 2 3) 1 = some J3 := by decide +kernel

/-- V-SM-10. -/
theorem test_smul_reduces_the_scalar :
    ptAfter (.smul 1 0 2) ((withPT G G).putW 2 (BitVec.twoPow 512 511)) 1 =
      some
        ⟨0x5bb5497baf3f1126c944a86075b23d8004ed55479ad403663016b0bd,
          0xf3e0eac99daa54bc4eb4de7adc05c9361b6a66a5b4075fc6b503d50d,
          0x208661acc989ad95d1914d5d5c6b7c1f205fc62323d9a91581baa20a⟩ := by decide +kernel

/-- V-SM-5. -/
theorem test_recode_of_31 : (recode 31).take 7 = [-1, 0, 0, 0, 0, 1, 0] := by decide +kernel

/-! ## The key commands (V-KEY) -/

/-- V-KEY-1. -/
theorem test_kpub_scenario_1 :
    wAfter (.kpub 0 2) (ready.putW 2 s1) 0 = some s1 ∧ ptAfter (.kpub 0 2) (ready.putW 2 s1) 0 = some pub1 := by decide +kernel

/-- V-KEY-4. -/
theorem test_kpub_keeps_the_scalar :
    wAfter (.kpub 0 2) (ready.putW 2 (N + 1)) 0 = some (N + 1) ∧
      ptAfter (.kpub 0 2) (ready.putW 2 (N + 1)) 0 = some G := by decide +kernel

/-- V-KEY-17. -/
theorem test_kdrv_second_branch :
    ptAfter (.kdrv 2 0 1) (withSlots 0 G 3 ⟨5, 6, 7⟩) 2 = some A3 ∧
      wAfter (.kdrv 2 0 1) (withSlots 0 G 3 ⟨5, 6, 7⟩) 2 = some 0 := by decide +kernel

/-- V-KEY-18. -/
theorem test_kdrv_ignores_z :
    ptAfter (.kdrv 0 0 1) (withSlots 3 ⟨Gx, Gy, 7⟩ 0 ⟨Gx, Gy, 5⟩) 0 = some A3 := by decide +kernel

/-- V-KEY-6. -/
theorem test_pack_of_g :
    wAfter (.pack 4 0) (withPT G G) 4 =
      some 0x4b70e0cbd6bb4bf7f321390b94a03c1d356c21122343280d6115c1d21bd376388b5f723fb4c22dfe6cd4375a05a07476444d5819985007e34 := by decide +kernel

/-- V-KEY-9. -/
theorem test_pack_overlaps :
    wAfter (.pack 4 0) (withPT ⟨1, (BitVec.twoPow 512 224), 1⟩ G) 4 = some ((BitVec.twoPow 512 450) + (BitVec.twoPow 512 224)) := by decide +kernel

/-- V-KEY-10. -/
theorem test_unpack_toggles_the_marker :
    ptAfter (.unpack 1 4) (ready.putW 4 (Gx * (BitVec.twoPow 512 224) + Gy)) 1 = some ⟨Gx + (BitVec.twoPow 512 226), Gy, 1⟩ := by decide +kernel

/-- R204, corner case 4: a = d is legal. -/
theorem test_unpack_clears_the_scalar :
    wAfter (.unpack 4 4) (ready.putW 4 (BitVec.twoPow 512 450)) 4 = some 0 := by decide +kernel

/-! ## The window (V-BUS) -/

/-- V-BUS-1, V-BUS-6, V-BUS-9, V-BUS-11. -/
theorem test_id_and_limbs :
    State.reset.stored 0x0000 = 0x50323234 ∧ State.reset.stored 0x3080 = 0x115C1D21 ∧
      State.reset.stored 0x3110 = 0xFFFFFFFF ∧ State.reset.stored 0xFFFC = 0 := by decide +kernel

/-- V-BUS-13. -/
theorem test_top_limb_of_w3 :
    (((ready.putW 3 0).busWrite 0x10FC 32 0x80000000).w[3]) = BitVec.twoPow 512 511 := by decide +kernel

/-- V-BUS-14. -/
theorem test_z_limb_of_pt1 : ((ready.putPT 1 ⟨3, 4, 0⟩).busWrite 0x2140 32 1).pt[1] = ⟨3, 4, 1⟩ := by decide +kernel

/-- V-BUS-16. -/
theorem test_bytes_of_w0 :
    (List.range 8).map (fun n => (ready.putW 0 0x0807060504030201).windowByte (BitVec.ofNat 16 (0x1000 + n))) =
      [1, 2, 3, 4, 5, 6, 7, 8] := by decide +kernel

/-- V-BUS-17. -/
theorem test_refused_accesses :
    (ready.busRead 0x1002 32).busFault = true ∧ (ready.busRead 0x1000 16).response = .busError 0x1000 := by decide +kernel

/-- V-BUS-21, V-BUS-22. -/
theorem test_status_clearing :
    ({ ready with status := ⟨false, true, true, false, some .divByZero⟩ }.busWrite 0x0008 32 2).status.word = 0x304 ∧
      ({ ready with status := ⟨false, true, true, false, some .divByZero⟩ }.busWrite 0x0008 32 4).status.word = 0x002 := by decide +kernel

/-! ## The life of a command (V-ERR, V-RST) -/

/-- V-ERR-1. -/
theorem test_command_runs_after_its_write :
    (steps 2 ((withW 5 7).withSchedule [.write 0x0004 32 0x00032101])).map (fun t => (t.w[1], t.status.word)) =
      some (12, 2) := by decide +kernel

/-- V-ERR-11. -/
theorem test_second_command_is_dropped :
    (steps 3 ((withW 5 7).withSchedule [.write 0x0004 32 0x00032101, .write 0x0004 32 0x00032102])).map
        (fun t => (t.w[1], t.status.word, t.cmd)) = some (12, 0xA, 0x00032101) := by decide +kernel

/-- V-RST-6. -/
theorem test_zero_word_after_reset :
    (steps 2 (State.reset.withSchedule [.write 0x0004 32 0])).map (fun t => (t.status.word, t.uninitFault)) =
      some (0x106, false) := by decide +kernel

/-- V-RST-5. -/
theorem test_uninitialised_source_is_recorded :
    (steps 1 (State.reset.withSchedule [.write 0x0004 32 0x00032101])).map (·.uninitFault) = some true := by decide +kernel

/-- V-RST-3. -/
theorem test_soft_reset_abandons :
    (steps 2 ((running (withPT G G) 0x00000130).withSchedule [.write 0x0010 32 1, .read 0x0008 32])).map
        (fun t => (t.status.word, t.pt[1] == G, t.response)) = some (0, true, .data 0x0008 0) := by decide +kernel

/-- The command placed by `withFetchWord` is the one the next step runs: V-CONST-7. -/
theorem test_fetched_word_runs_first :
    (stepped (State.reset.withFetchWord 32 0x00400F10)).map (fun t => (t.w[15], t.cmd)) = some (N, 0x00400F10) := by decide +kernel

/-- R268. -/
theorem test_idle_core_keeps_everything : stepped ready = some ready := by decide +kernel

/-! ## The host's texts and the assembler (V-HOST, R90, R91) -/

/-- V-HOST-1, V-HOST-4, V-HOST-5. -/
theorem test_hex_parse :
    hexParse (octets "AbC") = .ok 0xabc ∧ hexParse (octets "") = .error .parseError ∧
      hexParse (octets "0x12") = .error .parseError := by decide +kernel

/-- V-HOST-10, V-HOST-12. -/
theorem test_hex_format :
    hexFormat 0xabc = List.replicate 61 0x30 ++ octets "abc" ∧ hexFormat (BitVec.twoPow 512 300) =
      octets "1" ++ List.replicate 75 0x30 := by decide +kernel

/-- V-HOST-28, E7. -/
theorem test_public_text_scenario_1 :
    (match getPublicHex 0 8 (match (fromPrivateHex 0 (octets
        "af0181e90420508e39e9d862f1680dc22f5f024fcfc11939d7c6fedb") State.reset).1 with
      | .ok key => key
      | .error _ => ⟨0, 0, 0⟩) State.reset with
      | (.ok text, _) => some text
      | (.error _, _) => none) = some (octets ("4bcf74addac6c83a587eeb6d2a724158cebaecfed0af82a90434268e0" ++
        "3c82f21e137c7341a70c0044ed058d5fe6c7aa38eb16542fdf5ae111")) := by decide +kernel

/-- V-HOST-17, V-HOST-18, V-HOST-23. -/
theorem test_public_text_lengths :
    (fromPublicHex 0 (List.replicate 57 0x7A) State.reset).1 = .error .unsupportedFormat ∧
      (fromPublicHex 0 [] State.reset).1 = .error .invalidLength ∧
      (fromPublicHex 0 (List.replicate 113 0x67) State.reset).1 = .error .parseError := by decide +kernel

/-- V-HOST-27. -/
theorem test_derive_needs_a_scalar :
    (deriveKey 0 1 2 ⟨0, Gx, Gy⟩ ⟨0, Gx, Gy⟩ State.reset).1 = .error .cannotDerive := by decide +kernel

/-- R90. -/
theorem test_assembler :
    assembleLine "SHLI w4, w5, 224 ; shift".toList = .ok [.shli 4 5 224] ∧
      assembleLine "ldc w0, N".toList = .ok [.ldc 0 4] ∧ assembleLine "add w1, w2".toList = .error .badOperands := by decide +kernel

/-- R91. -/
theorem test_pseudo_instructions :
    assembleLine "CLR w5".toList = .ok [.xor 5 5 5] ∧
      assembleLine "MULMOD w3, w1, w2, w0".toList = .ok [.mul 3 1 2, .rem 3 3 0] := by decide +kernel

/-! ## Witnesses: states and operands that meet the hypotheses of each obligation that has any, clause by clause -/

theorem witness_DecodeEncodeRoundTrip : (Instr.ldc 15 4).wellFormed = true := by decide

theorem witness_DecodedWordIsItsEncoding : decode 0x00400F10 = .ok (.ldc 15 4) := by decide

theorem witness_IllegalOpcode :
    (running ready 0xFF).status.busy = true ∧ (running ready 0xFF).cmd = 0xFF ∧ (running ready 0xFF).schedule = [] ∧
      decode 0xFF = .error .illegalOpcode ∧
      ((running ready 0xFF).withSchedule [.coreTurn]).schedule = [.coreTurn] := by decide +kernel

theorem witness_IllegalOpcode_ends_of_ranges :
    ∀ op ∈ [0x00, 0x12, 0x1F, 0x24, 0x2F, 0x31, 0x3F, 0x44, 0xFF], decode (BitVec.ofNat 32 op) = .error .illegalOpcode := by decide +kernel

theorem witness_IllegalOpcode_legal_neighbours :
    ∀ op ∈ [0x01, 0x11, 0x20, 0x23, 0x30, 0x40, 0x43], decode (BitVec.ofNat 32 op) ≠ .error .illegalOpcode := by decide +kernel

theorem witness_IllegalOperand :
    (⟨0x10, .i, .w, .unused, .unused⟩ : OpcodeRow) ∈ opcodeMap ∧ 0x10 = (0x00500010 : Word).toNat % 256 ∧
      decode 0x00500010 = .error .illegalOperand ∧ (running ready 0x00500010).status.busy = true ∧
      (running ready 0x00500010).cmd = 0x00500010 ∧ (running ready 0x00500010).schedule = [] ∧
      ((running ready 0x00500010).withSchedule [.coreTurn]).schedule = [.coreTurn] := by decide +kernel

theorem witness_StepRunsDecodedCommand :
    (running (withW 5 7) 0x00032101).status.busy = true ∧ decode 0x00032101 = .ok (.add 1 2 3) ∧
      (Instr.add 1 2 3).wellFormed = true ∧ (running (withW 5 7) 0x00032101).schedule = [] ∧
      ((running (withW 5 7) 0x00032101).withSchedule [.coreTurn]).schedule = [.coreTurn] := by decide +kernel

theorem witness_StepRunsDecodedCommand_accesses :
    (ready.withSchedule [.read 0x1000 32]).schedule = [.read 0x1000 32] ∧
      (ready.withSchedule [.write 0x1001 8 1]).schedule = [.write 0x1001 8 1] ∧
      ready.status.busy = false ∧ ready.schedule = [] ∧
      (ready.withSchedule [.coreTurn]).status.busy = false := by decide +kernel

theorem witness_AcceptanceStartsTheCommand :
    ready.status.busy = false ∧ (ready.withSchedule [.write cmdAddr 32 0]).schedule = [.write cmdAddr 32 0] := by decide +kernel

theorem witness_WritesWhileBusyAreDropped :
    (running ready 1).status.busy = true ∧
      [cmdAddr, 0x1000, 0x13FC, 0x2000, 0x25FC].all (fun a => accessOk a 32 &&
        (a == cmdAddr || decide ((0x1000 ≤ a.toNat ∧ a.toNat < 0x1400) ∨ (0x2000 ≤ a.toNat ∧ a.toNat < 0x2600)))) = true := by decide +kernel

theorem witness_RunningCommandKeepsItsOperands :
    (running ready 1).status.busy = true ∧
      (stepped ((running ready 1).withSchedule [.read statusAddr 32])).map (·.status.busy) = some true := by decide +kernel

theorem witness_ConflictAndBusy_conflict :
    ready.status.conflict = false ∧
      (stepped ((running ready 1).withSchedule [.write 0x1000 32 0])).map (·.status.conflict) = some true := by decide +kernel

theorem witness_ConflictAndBusy_busy_ends :
    ∀ es ∈ [[], [.coreTurn], [.hardReset], [.write ctrlAddr 32 1]],
      (stepped ((running ready 1).withSchedule es)).map (·.status.busy) = some false := by decide +kernel

theorem witness_LatencyDoesNotChangeTheResult :
    (withW 5 7).status.busy = false ∧ decode 0x00032101 = .ok (.add 1 2 3) ∧
      (withW 5 7).sourcesMarked (.add 1 2 3) = true ∧
      ∀ e ∈ [Event.write 0x1080 32 9, .read statusAddr 32, .write 0x1001 16 0], e.keepsRunning = true := by decide +kernel

theorem witness_ErrorsArePrecise :
    (withW 7 0).status.err = false ∧ (after (.div 1 2 3) (withW 7 0)).map (·.status.err) = some true := by decide +kernel

theorem witness_ErrorsAreThoseOfTheTable :
    (Instr.div 1 2 3).wellFormed = true ∧ (withW 7 0).status.errcode = none ∧
      (after (.div 1 2 3) (withW 7 0)).map (·.status.errcode) = some (some .divByZero) := by decide +kernel

theorem witness_CommandsChangeOnlyTheirDestinations :
    (after (.add 1 2 3) (withW 5 7)).isSome = true ∧ isCmp (.add 1 2 3) = false := by decide +kernel

theorem witness_CommandsChangeOnlyTheirWindowBytes :
    (after (.add 1 2 3) (withW 5 7)).isSome = true ∧ commandMayChange (.add 1 2 3) 0x103F = false ∧
      commandMayChange (.add 1 2 3) 0x1040 = true ∧ commandMayChange (.add 1 2 3) 0x107F = true ∧
      commandMayChange (.add 1 2 3) 0x1080 = false ∧ commandMayChange (.cmp 1 2) 0x000C = true := by decide +kernel

theorem witness_OnlyCmpOrResetChangesFlags_cmp :
    (withW 7 7).flags = ⟨false, false, false⟩ ∧
      [running (withW 7 7) 0x0003200D, (running (withW 7 7) 0x0003200D).withSchedule [.coreTurn]].all (fun s =>
        (stepped s).map (·.flags) == some ⟨true, false, false⟩) = true := by decide +kernel

theorem witness_OnlyCmpOrResetChangesFlags_reset :
    [Event.hardReset, .write ctrlAddr 32 1].all (fun e =>
      (stepped { ready with flags := ⟨true, false, false⟩, schedule := [e] }).map (·.flags) ==
        some ⟨false, false, false⟩) = true := by decide +kernel

theorem witness_ResultsDependOnlyOnSources :
    (withW 5 7).status = ((withW 5 7).putW 9 1).status ∧ (withW 5 7).sourcesMarked (.add 1 2 3) = true ∧
      ((withW 5 7).putW 9 1).sourcesMarked (.add 1 2 3) = true ∧
      (∀ r : WReg, Source.w r ∈ sources (.add 1 2 3) (withW 5 7) → (withW 5 7).w[r] = ((withW 5 7).putW 9 1).w[r]) ∧
      (∀ r : PReg, Source.pt r ∈ sources (.add 1 2 3) (withW 5 7) → (withW 5 7).pt[r] = ((withW 5 7).putW 9 1).pt[r]) ∧
      (after (.add 1 2 3) (withW 5 7)).map (·.status.err) = some false := by decide +kernel

theorem witness_StepKeepsInvariant : (running (withW 5 7) 0x00032101).Inv ∧
    (stepped (running (withW 5 7) 0x00032101)).isSome = true := by
  refine ⟨⟨?_, ?_, ?_⟩, by decide +kernel⟩
  · exact ⟨rfl, fun _ => ⟨rfl, rfl⟩⟩
  · exact ⟨rfl, rfl, rfl⟩
  · intro _ _; decide +kernel

theorem witness_UninitialisedSource :
    State.reset.status.busy = false ∧ decode 0x00032101 = .ok (.add 1 2 3) ∧
      Source.w 2 ∈ sources (.add 1 2 3) State.reset ∧ State.reset.marked (.w 2) = false ∧
      decode 0x00000000 = .error .illegalOpcode ∧ (∀ r ∈ sources (.ldc 15 4) State.reset, State.reset.marked r = true) := by decide +kernel

theorem witness_UninitialisedSource_stays :
    (stepped { ready with uninitFault := true, busFault := true, schedule := [.hardReset] }).isSome = true := by decide +kernel

theorem witness_UninitialisedSource_recorded :
    State.reset.uninitFault = false ∧
      (stepped (State.reset.withSchedule [.write cmdAddr 32 0x00032101])).map (·.uninitFault) = some true := by decide +kernel

theorem witness_HardResetEffect : (ready.withSchedule [.hardReset]).schedule = [.hardReset] := by decide +kernel

theorem witness_SoftResetEffect :
    (1 : Word).getLsbD 0 = true ∧ (0xFFFFFFFE : Word).getLsbD 0 = false := by decide +kernel

theorem witness_StatusRegister :
    Status.zero.errcode = none ∧ (Status.zero.failed .operandRange).errcode = some .operandRange ∧
      (4 : Word).getLsbD 2 = true ∧ (0xFFFFFFFB : Word).getLsbD 2 = false := by decide +kernel

theorem witness_WindowLayoutIsLittleEndian : (0 : Nat) < 64 ∧ (63 : Nat) < 64 := by decide +kernel

/-- A register written before, the last limb of one that lacks it, and the first limb of one that lacks them all. -/
theorem witness_LimbWriteReplacesItsBits :
    ready.status.busy = false ∧ (ready.busWrite (wAddr 15 15) 32 1).wMarked 15 = true ∧
      (ready.busWrite (ptAddr 7 2 15) 32 1).ptMarked 7 = true ∧
      ({ State.reset with wLimbs := Vector.replicate 16 0x7FFF }.busWrite (wAddr 15 15) 32 1).wMarked 15 = true ∧
      (State.reset.busWrite (wAddr 0 0) 32 1).wMarked 0 = false ∧
      (State.reset.busWrite (ptAddr 0 0 0) 32 1).ptMarked 0 = false := by decide +kernel

theorem witness_FullHostWriteInitialises : State.reset.status.busy = false := by decide +kernel

/-- An initialised register of an idle block, one of a busy block, and one without its mark; the first and the last
address of each range. -/
theorem witness_ReadsAnswerWithoutSideEffect :
    (ready.status.busy = false ∧ ready.wMarked 15 = true ∧ ready.ptMarked 7 = true) ∧
      (running ready 0x00032101).status.busy = true ∧
      (State.reset.wMarked 0 = false ∧ State.reset.ptMarked 0 = false) ∧
      [(0x0000 : Addr), 0x0004, 0x0008, 0x000C, 0x0010, 0x0FFC, 0x1000, 0x13FC, 0x1400, 0x1FFC, 0x2000, 0x25FC, 0x2600,
        0x2FFC, 0x3000, 0x313C, 0x3140, 0xFFFC].all (fun a => a.toNat % 4 == 0) = true := by decide +kernel

/-- The last limbs of the three windows. -/
theorem witness_ReadsAnswerWithoutSideEffect_limbs :
    (0x13FC : Addr).toNat = 0x1000 + 0x40 * (15 : Fin 16).val + 4 * (15 : Fin 16).val ∧
      (0x25FC : Addr).toNat = 0x2000 + 0xC0 * (7 : Fin 8).val + 0x40 * (2 : Fin 3).val + 4 * (15 : Fin 16).val ∧
      (0x313C : Addr).toNat = 0x3000 + 0x40 * (4 : Fin 5).val + 4 * (15 : Fin 16).val := by decide +kernel

theorem witness_ReadOnlyWritesAreIgnored :
    [(0x0000 : Addr), 0x000C, 0x0014, 0x0FFC, 0x1400, 0x1FFC, 0x2600, 0x3000, 0xFFFC].all (fun a =>
      decide (a.toNat % 4 = 0 ∧ (a.toNat = 0 ∨ a.toNat = 0x000C ∨ (0x0014 ≤ a.toNat ∧ a.toNat < 0x1000) ∨
        (0x1400 ≤ a.toNat ∧ a.toNat < 0x2000) ∨ 0x2600 ≤ a.toNat))) = true := by decide +kernel

theorem witness_RefusedAccessChangesNothing :
    (16 : Nat) ≠ 32 ∧ (0x1001 : Addr).toNat % 4 ≠ 0 ∧ (0x1003 : Addr).toNat % 4 ≠ 0 := by decide +kernel

theorem witness_AddSubMulWrap : (withW 5 7).wMarked 2 = true ∧ (withW 5 7).wMarked 3 = true := by decide +kernel

theorem witness_DivRemUnsigned :
    (withW 5 1).w[3].toNat ≠ 0 ∧ (withW 5 0).w[3].toNat = 0 ∧ (withW 5 0).wMarked 2 = true ∧
      (withW 5 0).wMarked 3 = true ∧ (withW 5 1).wMarked 2 = true ∧ (withW 5 1).wMarked 3 = true := by decide +kernel

theorem witness_BitwiseCommands : (withW 12 10).wMarked 2 = true ∧ (withW 12 10).wMarked 3 = true := by decide +kernel

theorem witness_ShiftsByRegister :
    (withW 5 511).w[3].toNat < 512 ∧ 512 ≤ (withW 5 512).w[3].toNat ∧ (withW 5 511).wMarked 2 = true ∧
      (withW 5 511).wMarked 3 = true ∧ (withW 5 512).wMarked 2 = true ∧ (withW 5 512).wMarked 3 = true := by decide +kernel

theorem witness_ShiftsByImmediate :
    (511 : Imm12).toNat < 512 ∧ 512 ≤ (512 : Imm12).toNat ∧ 512 ≤ (4095 : Imm12).toNat ∧ ready.wMarked 5 = true := by decide +kernel

theorem witness_CmpWritesFlags : (withW 7 7).wMarked 2 = true ∧ (withW 7 7).wMarked 3 = true := by decide +kernel

theorem witness_Cvt64ChecksRange :
    (withW ((BitVec.twoPow 512 64) - 1) 0).w[2].toNat < 2 ^ 64 ∧ 2 ^ 64 ≤ (withW (BitVec.twoPow 512 64) 0).w[2].toNat ∧
      (withW (BitVec.twoPow 512 64) 0).wMarked 2 = true ∧ (withW ((BitVec.twoPow 512 64) - 1) 0).wMarked 2 = true := by decide +kernel

theorem witness_InvmodRunsTheLoop :
    (withW 5 0).w[3].toNat = 0 ∧ (withW 5 1).w[3].toNat ≠ 0 ∧ (withW 5 1).w[2].toNat % (withW 5 1).w[3].toNat = 0 ∧
      (withW 3 7).w[3].toNat ≠ 0 ∧ (withW 3 7).w[2].toNat % (withW 3 7).w[3].toNat ≠ 0 ∧
      [withW 5 0, withW 5 1, withW 3 7].all (fun s => s.wMarked 2 && s.wMarked 3) = true := by decide +kernel

theorem witness_InverseModIsExact :
    [(2 : Value), P, (BitVec.twoPow 512 256) - 1, BitVec.twoPow 512 256, BitVec.allOnes 512].all (fun m =>
      decide (2 ≤ m.toNat ∧ (1 : Value).toNat % m.toNat ≠ 0)) = true ∧
      [(2 : Value), P, (BitVec.twoPow 512 256) - 1].all (fun m => decide (m.toNat < 2 ^ 256)) = true := by decide +kernel

theorem witness_LdcLoadsTheRom :
    [(0x00500010 : Word), 0xFFF00010, 0x00001010].all (fun c =>
      decide (c.toNat % 256 = 0x10 ∧ (5 ≤ c.toNat / 2 ^ 20 ∨ c.toNat / 2 ^ 12 % 16 ≠ 0))) = true := by decide +kernel

/-- The words that `OperandsIllegal` speaks of, in PLDG's to UNPACK's statements, CMP's and CVT64's. -/
theorem witness_OperandsIllegal :
    (0x00000820 : Word).toNat % 256 = 0x20 ∧ 8 ≤ (0x00000820 : Word).toNat / 2 ^ 8 % 16 ∧
      8 ≤ (0x00008021 : Word).toNat / 2 ^ 12 % 16 ∧ (0x00010022 : Word).toNat / 2 ^ 16 % 16 ≠ 0 := by decide +kernel

/-- The points of the field and one that is not, for the statements of the point commands. -/
theorem witness_InField : G.InField ∧ J2.InField ∧ Point.InField ⟨P - 1, 0, P - 1⟩ ∧ ¬ Point.InField ⟨P, 0, 1⟩ ∧
    ¬ Point.InField ⟨1, P, 1⟩ ∧ ¬ Point.InField ⟨1, 2, P⟩ := by
  unfold Point.InField; decide +kernel

/-- With `witness_InField`: PNEG, PADD, PDBL, PAFF and SMUL. -/
theorem witness_PointCommands :
    (withPT G J2).ptMarked 0 = true ∧ (withPT G J2).ptMarked 1 = true ∧ (withPT G J2).pt[0] = G ∧
      (withPT ⟨P, 0, 1⟩ G).ptMarked 0 = true ∧ (withPT ⟨P, 0, 1⟩ G).pt[0] = ⟨P, 0, 1⟩ := by decide +kernel

/-- The four cases of the addition: an identity on either side, equal points, opposite points, and the rest. -/
theorem witness_PaddFollowsItsFormulas :
    (Point.identity.x = 0 ∧ Point.identity.y = 0) ∧ ¬ (G.x = 0 ∧ G.y = 0) ∧ ¬ (NG.x = 0 ∧ NG.y = 0) ∧
    ((G.x.toNat : Int) * (G.z.toNat : Int) ^ 2 ≡ (NG.x.toNat : Int) * (G.z.toNat : Int) ^ 2 [ZMOD fieldPrime]) ∧
    ¬ ((G.y.toNat : Int) * (NG.z.toNat : Int) ^ 3 ≡ (NG.y.toNat : Int) * (G.z.toNat : Int) ^ 3 [ZMOD fieldPrime]) ∧
    ¬ ((J2.x.toNat : Int) * (G.z.toNat : Int) ^ 2 ≡ (G.x.toNat : Int) * (J2.z.toNat : Int) ^ 2 [ZMOD fieldPrime]) := by
  unfold Int.ModEq; decide +kernel

theorem witness_PaffConvertsToAffine :
    (withPT ⟨5, 6, 0⟩ G).pt[0].z.toNat = 0 ∧ (withPT J2 G).pt[0].z.toNat ≠ 0 ∧ (withPT J2 G).ptMarked 0 = true ∧
      (withPT ⟨5, 6, 0⟩ G).ptMarked 0 = true := by decide +kernel

theorem witness_PaffConvertsToAffine_field : Point.InField ⟨5, 6, 0⟩ := by unfold Point.InField; decide +kernel

theorem witness_AffineCoordinatesAreQuotients : J2.InField ∧ Nat.Coprime J2.z.toNat fieldPrime := by
  unfold Point.InField Nat.Coprime; decide +kernel

/-- With `witness_InField`. -/
theorem witness_PointResultsAreCanonical : toAffine J2 = .ok A2 := by decide +kernel

theorem witness_SmulCompletes :
    ((withPT G G).putW 2 3).ptMarked 0 = true ∧ ((withPT G G).putW 2 3).wMarked 2 = true := by decide +kernel

/-- With `witness_InField`; the identity of the fourth clause is `Point.identity`; m is 1 and 15 in the last. -/
theorem witness_SmulCornerCases :
    N.toNat % N.toNat = 0 ∧ (N + 1).toNat % N.toNat = 1 ∧ (0 : Value) = 0 ∧
      (1 : Value).toNat % N.toNat = 1 ∧ (2 : Value).toNat % N.toNat = 2 * 1 ∧ (31 : Value).toNat % N.toNat = 32 - 1 ∧
      (15 : Value).toNat % N.toNat = 15 ∧ (30 : Value).toNat % N.toNat = 2 * 15 ∧
      (17 : Value).toNat % N.toNat = 32 - 15 := by decide +kernel

/-- The largest scalar needs the last position. -/
theorem witness_DigitsSumToTheScalar :
    ((BitVec.twoPow 512 224) - 1).toNat < 2 ^ 224 ∧ (recode ((BitVec.twoPow 512 224) - 1)).getD 224 0 = 1 := by decide +kernel

theorem witness_DigitsAreOddAndSparse :
    (recode 31).getD 0 0 ≠ 0 ∧ (recode 31).getD 5 0 ≠ 0 ∧ -1 ∈ recode 31 := by decide +kernel

theorem witness_KpubMakesAKey : (ready.putW 2 1).wMarked 2 = true := by decide +kernel

theorem witness_KdrvDerives :
    (withSlots 0 G 0 G).w[slotW 0] = 0 ∧ (withSlots 0 G 0 G).w[slotW 1] = 0 ∧
      (withSlots 2 J2 0 G).w[slotW 0] ≠ 0 ∧ (withSlots 0 J2 3 G).w[slotW 0] = 0 ∧ (withSlots 0 J2 3 G).w[slotW 1] ≠ 0 ∧
      [withSlots 0 G 0 G, withSlots 2 J2 0 G, withSlots 0 J2 3 G].all (fun s =>
        s.wMarked (slotW 0) && s.wMarked (slotW 1) && s.ptMarked (slotPT 0) && s.ptMarked (slotPT 1)) = true := by decide +kernel

/-- Both arms of the last clause: a point off the curve, V-PT-28, and 2·G. -/
theorem witness_KdrvDerives_not_invertible :
    toAffine (smul ⟨5, 0, 1⟩ 2) = .error .notInvertible ∧ toAffine (smul G 2) = .ok A2 := by decide +kernel

theorem witness_PackAndUnpack : (withPT G G).ptMarked 0 = true ∧ (withPT G G).wMarked 4 = true := by decide +kernel

theorem witness_UnpackInvertsPack : G.x.toNat < 2 ^ 224 ∧ G.y.toNat < 2 ^ 224 := by decide +kernel

theorem witness_HexTextRoundTrip : 64 < (hexFormat (BitVec.twoPow 512 256)).length := by decide +kernel

theorem witness_PublicTextIsCheckedByLength :
    (List.replicate 57 (0 : Byte)).length = 57 ∧ ([] : List Byte).length ≠ 57 ∧ ([] : List Byte).length ≠ 113 ∧
      (List.replicate 113 (0x67 : Byte)).length = 113 ∧ hexParse (List.replicate 113 0x67) = .error .parseError := by decide +kernel

theorem witness_PublicTextRoundTrip :
    State.reset.status.busy = false ∧ G.x.toNat < 2 ^ 224 ∧ G.y.toNat < 2 ^ 224 := by decide +kernel

theorem witness_PublicTextRoundTrip_private :
    (match (fromPrivateHex 7 (octets "1") State.reset).1 with
      | .ok key => some key
      | .error _ => none) = some ⟨1, G.x, G.y⟩ := by decide +kernel

end Sys2Proof.Tests
end

section
/-! Proofs about the affine conversion (00_scope.md R15, 42_point.md R157): the inverse of Z as a congruence, the two
coordinates as numbers, and why multiplying them by the powers of Z gives X and Y back. -/

namespace Sys2Proof.Machine

/-! ## The inverse (40_integer.md R114, R115) -/

/-- Past its two error checks `inverse_mod` answers the last multiplier of the loop. -/
theorem inverseMod_ok {a m : Value} (hm : m.toNat ≠ 0) (ha : a.toNat % m.toNat ≠ 0) :
    inverseMod a m = .ok (euclidLoop m euclidPasses (euclidStart a m)).t := by
  have ham : a % m ≠ 0 := Value.toNat_ne_zero.1 (by rwa [BitVec.toNat_umod])
  rw [inverseMod, if_neg (Value.toNat_ne_zero.1 hm), if_neg ham]

/-- The loop ends with `new_r` = 0, so its last `r` is the greatest common divisor. -/
theorem EuclidInv.r_eq_gcd {a m : Value} {e : Euclid} (h : EuclidInv a m e) (hz : e.newR = 0) :
    e.r.toNat = Nat.gcd a.toNat m.toNat := by
  simp [← h.gcd, hz]

/-- For a modulus from 2 to 2^256 the result is below it, and times `a` it is the greatest common divisor. -/
theorem inverseMod_modEq_gcd {a m : Value} (hm : 2 ≤ m.toNat) (hm' : m.toNat < 2 ^ 256)
    (ha : a.toNat % m.toNat ≠ 0) :
    ∃ t, inverseMod a m = .ok t ∧ t.toNat < m.toNat ∧ a.toNat * t.toNat ≡ Nat.gcd a.toNat m.toNat [MOD m.toNat] := by
  have h : EuclidInv a m (euclidLoop m euclidPasses (euclidStart a m)) :=
    euclidLoop_inv hm' euclidPasses _ (euclidStart_inv a m hm) le_rfl
  refine ⟨_, inverseMod_ok (by omega) ha, h.t_lt, ?_⟩
  rw [← h.r_eq_gcd (euclid_ends m _)]
  exact h.r

theorem one_lt_fieldPrime : 1 < fieldPrime := by decide +kernel

/-- A value coprime to P has an inverse modulo P. -/
theorem inverseMod_P_of_coprime {z : Value} (hz : Nat.Coprime z.toNat fieldPrime) :
    ∃ zi, inverseMod z P = .ok zi ∧ zi.toNat < fieldPrime ∧ z.toNat * zi.toNat ≡ 1 [MOD fieldPrime] := by
  have hne : z.toNat % fieldPrime ≠ 0 := fun h =>
    one_lt_fieldPrime.ne' (Nat.Coprime.eq_one_of_dvd hz.symm (Nat.dvd_of_mod_eq_zero h))
  have hlt : fieldPrime < 2 ^ 256 := fieldPrime_lt.trans (Nat.pow_lt_pow_right one_lt_two (by decide))
  rw [← hz.gcd_eq_one, ← P_toNat]
  rw [← P_toNat] at hne hlt
  exact inverseMod_modEq_gcd (P_toNat ▸ one_lt_fieldPrime) hlt hne

/-! ## The coordinates (42_point.md R157) -/

/-- `to_affine` once the inverse of Z is there. -/
theorem toAffine_ok {p : Point} {zi : Value} (h : inverseMod p.z P = .ok zi) :
    toAffine p = .ok (lift (fmul p.x (fsq zi)) (fmul p.y (fmul (fsq zi) zi))) := by
  unfold toAffine
  simp only [h]

theorem lift_inField {x y : Value} (hx : x.toNat < fieldPrime) (hy : y.toNat < fieldPrime) : (lift x y).InField := by
  refine ⟨hx, hy, ?_⟩
  rw [lift, show (1 : Value).toNat = 1 by decide +kernel]
  exact one_lt_fieldPrime

theorem fmul_fsq_toNat {x zi : Value} (hx : x.toNat < fieldPrime) (hzi : zi.toNat < fieldPrime) :
    (fmul x (fsq zi)).toNat = x.toNat * zi.toNat ^ 2 % fieldPrime := by
  rw [fmul_toNat hx (fsq_lt zi), fsq_toNat hzi, Nat.mul_mod_mod]

theorem fmul_cube_toNat {y zi : Value} (hy : y.toNat < fieldPrime) (hzi : zi.toNat < fieldPrime) :
    (fmul y (fmul (fsq zi) zi)).toNat = y.toNat * zi.toNat ^ 3 % fieldPrime := by
  rw [fmul_toNat hy (fmul_lt _ _), fmul_toNat (fsq_lt zi) hzi, fsq_toNat hzi, Nat.mod_mul_mod, Nat.mul_mod_mod, ← pow_succ]

/-- Multiplying by a power of an inverse of z, and then by the same power of z, gives a reduced number back. -/
theorem mul_inv_pow_mul_pow {c z zi m : Nat} (k : Nat) (hc : c < m) (h : z * zi ≡ 1 [MOD m]) :
    c * zi ^ k % m * z ^ k % m = c := by
  have hk : c * (z * zi) ^ k ≡ c * 1 ^ k [MOD m] := (h.pow k).mul_left c
  calc c * zi ^ k % m * z ^ k % m = c * (z * zi) ^ k % m := by rw [Nat.mod_mul_mod]; ring_nf
    _ = c * 1 ^ k % m := hk
    _ = c := by rw [one_pow, mul_one, Nat.mod_eq_of_lt hc]

/-- Settles O48: Z coprime to P has an inverse zi, and x = X * zi^2, y = Y * zi^3 modulo P. -/
theorem affineCoordinatesAreQuotients : Obligations.AffineCoordinatesAreQuotients := by
  unfold Obligations.AffineCoordinatesAreQuotients
  intro p ⟨hx, hy, _⟩ hz
  obtain ⟨zi, hinv, hzi, hmul⟩ := inverseMod_P_of_coprime hz
  refine ⟨_, toAffine_ok hinv, rfl, lift_inField (fmul_lt _ _) (fmul_lt _ _), ?_, ?_⟩
  · rw [lift, fmul_fsq_toNat hx hzi]
    exact mul_inv_pow_mul_pow 2 hx hmul
  · rw [lift, fmul_cube_toNat hy hzi]
    exact mul_inv_pow_mul_pow 3 hy hmul

end Sys2Proof.Machine
end

section
/-! Proofs about STATUS, FLAGS and the resets (10_state.md, 70_reset_and_hazards.md): what each event can do to the
block, said once, and the invariant that every step keeps. -/

namespace Sys2Proof.Machine

/-! ## What a step can be -/

/-- The core moves next: it is its turn, or no event is to come (log 5). -/
def State.turnNext (s : State) : Prop := s.schedule = [] ∨ ∃ es, s.schedule = .coreTurn :: es

/-- The four things a step can be, by the event that is taken from the schedule (20_memory.md R60). -/
inductive StepKind (s : State) : State → Prop where
  | turn {t : State} (hs : s.turnNext) (h : coreTurn (s.withSchedule s.schedule.tail) = .next t) : StepKind s t
  | hardReset {es : List Event} (hs : s.schedule = .hardReset :: es) : StepKind s (s.withSchedule es).hardReset
  | read {a : Addr} {width : Nat} {es : List Event} (hs : s.schedule = .read a width :: es) :
    StepKind s ((s.withSchedule es).busRead a width)
  | write {a : Addr} {width : Nat} {v : Word} {es : List Event} (hs : s.schedule = .write a width v :: es) :
    StepKind s ((s.withSchedule es).busWrite a width v)

/-- The inversion lemma of `step`. -/
theorem stepKind_of_step {s t : State} (h : step s = .next t) : StepKind s t := by
  rcases step_cases s with ⟨hs, hstep⟩ | ⟨e, es, hs, hstep⟩
  · refine .turn (.inl hs) ?_
    rw [hs, List.tail_nil, ← h, hstep, ← hs]
    rfl
  · rw [hstep] at h
    cases e with
    | read a width => cases h; exact .read hs
    | write a width v => cases h; exact .write hs
    | hardReset => cases h; exact .hardReset hs
    | coreTurn => exact .turn (.inr ⟨es, hs⟩) (by rw [hs]; exact h)

/-- The locations a write to a running block is dropped at (R59, 60_exceptions.md R256). -/
def Loc.droppedWhileBusy (l : Loc) : Prop := l = .cmd ∨ (∃ i j, l = .w i j) ∨ ∃ i c j, l = .pt i c j

/-- The locations a write never has an effect at (R58). -/
def Loc.readOnly : Loc → Bool
  | .id | .flags | .rom _ _ | .reserved => true
  | .cmd | .status | .ctrl | .w _ _ | .pt _ _ _ => false

/-- What a write of `v` at a location can do to the block (20_memory.md R57 to R59). -/
inductive WriteEffect (s : State) (v : Word) : Loc → State → Prop where
  | readOnly {l : Loc} (hl : l.readOnly = true) : WriteEffect s v l s
  | noReset (hv : v.getLsbD 0 = false) : WriteEffect s v .ctrl s
  | accepted (hb : s.status.busy = false) : WriteEffect s v .cmd (s.accept v)
  | dropped {l : Loc} (hb : s.status.busy = true) (hl : l.droppedWhileBusy) : WriteEffect s v l s.conflict
  | cleared : WriteEffect s v .status (s.writeStatus v)
  | softReset (hv : v.getLsbD 0 = true) : WriteEffect s v .ctrl s.softReset
  | pokedW (i : WReg) (j : Fin 16) (hb : s.status.busy = false) : WriteEffect s v (.w i j) (s.pokeW i j v)
  | pokedPT (i : PReg) (c : Fin 3) (j : Fin 16) (hb : s.status.busy = false) :
    WriteEffect s v (.pt i c j) (s.pokePT i c j v)

/-- The inversion lemma of `State.writeAt`. -/
theorem State.writeAt_effect (s : State) (l : Loc) (v : Word) : WriteEffect s v l (s.writeAt l v) := by
  cases l with
  | id | flags | rom | reserved => exact .readOnly rfl
  | status => exact .cleared
  | ctrl =>
    rw [State.writeAt]
    split
    · next hv => exact .softReset hv
    · next hv => exact .noReset (Bool.eq_false_of_not_eq_true hv)
  | cmd =>
    rw [State.writeAt]
    split
    · next hb => exact .dropped hb (.inl rfl)
    · next hb => exact .accepted (Bool.eq_false_of_not_eq_true hb)
  | w i j =>
    rw [State.writeAt]
    split
    · next hb => exact .dropped hb (.inr (.inl ⟨i, j, rfl⟩))
    · next hb => exact .pokedW i j (Bool.eq_false_of_not_eq_true hb)
  | pt i c j =>
    rw [State.writeAt]
    split
    · next hb => exact .dropped hb (.inr (.inr ⟨i, c, j, rfl⟩))
    · next hb => exact .pokedPT i c j (Bool.eq_false_of_not_eq_true hb)

/-- A BusWrite is refused, or it is 32 bits wide and has one of the effects of its location (R53, R55). -/
theorem State.busWrite_cases (s : State) (a : Addr) (width : Nat) (v : Word) :
    s.busWrite a width v = s.refuseAccess a ∨
      width = 32 ∧ ∃ u, WriteEffect s v (locate a) u ∧ s.busWrite a width v = { u with response := .written a } := by
  cases h : accessOk a width with
  | false => exact .inl (s.busWrite_refused v h)
  | true =>
    obtain ⟨rfl, -⟩ := (accessOk_iff a width).1 h
    exact .inr ⟨rfl, _, s.writeAt_effect _ _, s.busWrite_taken v h⟩

/-! ## What the core's turn leaves unchanged -/

/-- The core runs the command its word decodes to, or completes with the decoder's error (30_encoding.md R89). -/
theorem runCommand_cases (s : State) :
    (∃ i, decode s.cmd = .ok i ∧ runCommand s = exec i s) ∨
      ∃ e, decode s.cmd = .error e ∧ runCommand s = .next (s.fail (decodeFailure e)) := by
  unfold runCommand
  cases h : decode s.cmd with
  | ok i => exact .inl ⟨i, rfl, rfl⟩
  | error e => exact .inr ⟨e, rfl, rfl⟩

/-- No completion touches CONFLICT (60_exceptions.md R253, R254). -/
theorem State.finish_conflict (s : State) (r : Except CmdError Writes) :
    (s.finish r).status.conflict = s.status.conflict := by
  cases r with
  | error e => rfl
  | ok wr => rfl

/-- An empty list of exceptions is the strongest frame: any destinations may be named instead. -/
theorem UnchangedExcept.mono {s t : State} (h : UnchangedExcept s t none none) (wd : Option WReg) (pd : Option PReg) :
    UnchangedExcept s t wd pd :=
  { h with
    w := fun k _ => h.w k nofun
    wLimbs := fun k _ => h.wLimbs k nofun
    pt := fun k _ => h.pt k nofun
    ptLimbs := fun k _ => h.ptLimbs k nofun }

/-- Settles O15: a completion writes what the command's shape names, and an error completion writes nothing. -/
theorem commandsChangeOnlyTheirDestinations : Obligations.CommandsChangeOnlyTheirDestinations := by
  unfold Obligations.CommandsChangeOnlyTheirDestinations
  intro i s t h
  obtain ⟨r, hr, hshape⟩ := exec_finishes i s
  cases hr.symm.trans h
  refine ⟨?_, fun hcmp => ?_, s.finish_conflict r⟩
  · cases r with
    | ok wr => rw [← hshape.w wr rfl, ← hshape.pt wr rfl]; exact s.complete_unchangedExcept wr
    | error e => exact (s.fail_unchangedExcept e).mono _ _
  · cases r with
    | ok wr =>
      have hnone : wr.flags = none := by simpa [hcmp] using hshape.flags wr rfl
      rw [State.finish_ok, State.complete_flags, hnone, Option.getD_none]
    | error e => rfl

theorem eq_cmp_of_isCmp {i : Instr} (h : isCmp i = true) : ∃ a b, i = .cmp a b := by
  cases i with
  | cmp a b => exact ⟨a, b, rfl⟩
  | _ => cases h

/-- The core's turn writes FLAGS only as the comparison of a CMP (10_state.md R22). -/
theorem runCommand_flags {s t : State} (h : runCommand s = .next t) :
    t.flags = s.flags ∨ ∃ a b, decode s.cmd = .ok (.cmp a b) ∧ t.flags = compareFlags (s.srcW a) (s.srcW b) := by
  rcases runCommand_cases s with ⟨i, hi, hrun⟩ | ⟨e, -, hrun⟩
  · rw [hrun] at h
    cases hcmp : isCmp i with
    | false => exact .inl ((commandsChangeOnlyTheirDestinations i s t h).2.1 hcmp)
    | true =>
      obtain ⟨a, b, rfl⟩ := eq_cmp_of_isCmp hcmp
      cases h
      exact .inr ⟨a, b, hi, rfl⟩
  · cases hrun.symm.trans h
    exact .inl rfl

/-! ## FLAGS (10_state.md R22) -/

/-- A bus write changes FLAGS only as a soft reset (70_reset_and_hazards.md R281). -/
theorem State.busWrite_flags (s : State) (a : Addr) (width : Nat) (v : Word) :
    (s.busWrite a width v).flags = s.flags ∨
      (s.busWrite a width v).flags = Flags.zero ∧ a = ctrlAddr ∧ width = 32 ∧ v.getLsbD 0 = true := by
  rcases s.busWrite_cases a width v with h | ⟨hw, u, hu, h⟩
  · rw [h]; exact .inl rfl
  · rw [h]
    generalize hl : locate a = l at hu
    cases hu with
    | softReset hv => exact .inr ⟨rfl, eq_ctrlAddr_of_locate hl, hw, hv⟩
    | readOnly | noReset | accepted | dropped | cleared | pokedW | pokedPT => exact .inl rfl

/-- Settles O17: each kind of step keeps FLAGS but a completed CMP and the two resets. -/
theorem onlyCmpOrResetChangesFlags : Obligations.OnlyCmpOrResetChangesFlags := by
  unfold Obligations.OnlyCmpOrResetChangesFlags
  intro s t h hne
  cases stepKind_of_step h with
  | turn hs ht =>
    rcases coreTurn_next (s.withSchedule s.schedule.tail) with ⟨-, hidle⟩ | ⟨hb, r, hr⟩
    · cases hidle.symm.trans ht
      exact absurd rfl hne
    · have hrun : runCommand (s.withSchedule s.schedule.tail) = .next t := by rwa [coreTurn, if_pos hb] at ht
      cases hr.symm.trans ht
      obtain ⟨hbusy, hdone, -, -⟩ := State.finish_status (s.withSchedule s.schedule.tail) r
      rcases runCommand_flags hrun with hsame | ⟨a, b, hdec, -⟩
      · exact absurd hsame hne
      · exact .inl ⟨hs, hb, hbusy, hdone, a, b, hdec⟩
  | hardReset hs => exact .inr ⟨rfl, .inl ⟨_, hs⟩⟩
  | @read a width es hs =>
    obtain ⟨_, _, _, hread, -⟩ := (s.withSchedule es).busRead_frame a width
    exact absurd (by rw [hread]; rfl) hne
  | @write a width v es hs =>
    rcases (s.withSchedule es).busWrite_flags a width v with hsame | ⟨hzero, rfl, rfl, hv⟩
    · exact absurd hsame hne
    · exact .inr ⟨hzero, .inr ⟨v, es, hs, hv⟩⟩

/-! ## CONFLICT and BUSY (10_state.md R24) -/

@[simp] theorem Status.word_zero : Status.zero.word = 0 := by decide

@[simp] theorem Flags.word_zero : Flags.zero.word = 0 := by decide

/-- A bus write sets CONFLICT only where it is dropped, and ends BUSY only as a soft reset. -/
theorem State.busWrite_conflict_busy (s : State) (a : Addr) (width : Nat) (v : Word) :
    (s.status.conflict = false → (s.busWrite a width v).status.conflict = true →
      s.status.busy = true ∧ width = 32 ∧ (locate a).droppedWhileBusy) ∧
    (s.status.busy = true → (s.busWrite a width v).status.busy = false →
      (s.busWrite a width v).status = Status.zero ∧ a = ctrlAddr ∧ width = 32 ∧ v.getLsbD 0 = true) := by
  rcases s.busWrite_cases a width v with h | ⟨hw, u, hu, h⟩
  · rw [h]; simp +contextual
  · rw [h]
    generalize hl : locate a = l at hu
    cases hu with
    | dropped hb hd => exact ⟨fun _ _ => ⟨hb, hw, hd⟩, by simp +contextual⟩
    | softReset hv => exact ⟨by simp [Status.zero], fun _ _ => ⟨rfl, eq_ctrlAddr_of_locate hl, hw, hv⟩⟩
    | cleared => simp +contextual [Status.clearedBy]
    | readOnly | noReset | accepted | pokedW | pokedPT => simp +contextual

/-- Settles O11: the only kinds of step that set CONFLICT or end BUSY are those it names. -/
theorem conflictAndBusyHaveTheirCauses : Obligations.ConflictAndBusyHaveTheirCauses := by
  unfold Obligations.ConflictAndBusyHaveTheirCauses
  intro s t h
  cases stepKind_of_step h with
  | turn hs ht =>
    rcases coreTurn_next (s.withSchedule s.schedule.tail) with ⟨hb, hidle⟩ | ⟨-, r, hr⟩
    · cases hidle.symm.trans ht
      simp +contextual
    · cases hr.symm.trans ht
      have hconf := State.finish_conflict (s.withSchedule s.schedule.tail) r
      obtain ⟨-, hdone, -, -⟩ := State.finish_status (s.withSchedule s.schedule.tail) r
      exact ⟨fun hc hc' => by simp [hconf, hc] at hc', fun _ _ => .inl ⟨hs, hdone⟩⟩
  | @hardReset es hs => exact ⟨by simp [Status.zero], fun _ _ => .inr ⟨by simp, es, .inl hs⟩⟩
  | @read a width es hs =>
    obtain ⟨_, _, _, hread, -⟩ := (s.withSchedule es).busRead_frame a width
    rw [hread]
    simp +contextual
  | @write a width v es hs =>
    obtain ⟨hconf, hbusy⟩ := (s.withSchedule es).busWrite_conflict_busy a width v
    refine ⟨fun hc hc' => ?_, fun hb hb' => ?_⟩
    · obtain ⟨hb, rfl, hl⟩ := hconf hc hc'
      exact ⟨hb, a, v, es, hs, hl⟩
    · obtain ⟨hst, rfl, rfl, hv⟩ := hbusy hb hb'
      exact .inr ⟨by rw [hst, Status.word_zero], es, .inr ⟨v, hs, hv⟩⟩

/-! ## The invariant -/

/-- Which registers a command reads depends on the scalars it reads only (44_key.md R202). -/
theorem sources_congr {i : Instr} {s t : State} (h : ∀ r, Source.w r ∈ sources i s → t.srcW r = s.srcW r) :
    sources i t = sources i s := by
  cases i with
  | kdrv d a b =>
    have ha := h (slotW a) (List.mem_append_left _ (by simp))
    have hb := h (slotW b) (List.mem_append_left _ (by simp))
    rw [sources, sources, ha, hb]
  | _ => rfl

/-- States with the same W registers and the same marks agree on which commands read initialised registers only,
whatever their free values are. -/
theorem State.sourcesMarked_congr {i : Instr} {s t : State} (hw : t.w = s.w) (hwl : t.wLimbs = s.wLimbs)
    (hptl : t.ptLimbs = s.ptLimbs) (h : s.sourcesMarked i = true) : t.sourcesMarked i = true := by
  have hwm : ∀ r, t.wMarked r = s.wMarked r := fun r => by simp [State.wMarked, hwl]
  have hmarked : t.marked = s.marked := by
    funext r
    cases r with
    | w r => exact hwm r
    | pt r => simp [State.marked, State.ptMarked, hptl]
  have hsrc : sources i t = sources i s := by
    refine sources_congr fun r hr => ?_
    have hm : s.wMarked r = true := List.all_eq_true.1 h _ hr
    rw [s.srcW_of_marked hm, t.srcW_of_marked ((hwm r).trans hm), hw]
  rw [State.sourcesMarked, hsrc, hmarked]
  exact h

theorem State.readsUninitialised_congr {c : Word} {s t : State} (hw : t.w = s.w) (hwl : t.wLimbs = s.wLimbs)
    (hptl : t.ptLimbs = s.ptLimbs) (h : s.readsUninitialised c = false) : t.readsUninitialised c = false := by
  unfold State.readsUninitialised at h ⊢
  cases hc : decode c with
  | ok i =>
    simp only [hc, Bool.not_eq_false'] at h ⊢
    exact State.sourcesMarked_congr hw hwl hptl h
  | error e => rfl

/-- An event that leaves the running command, its operands and FLAGS as they are keeps the invariant once it keeps
STATUS consistent. -/
theorem State.Inv.congr {s t : State} (h : s.Inv) (hst : t.status.consistent)
    (hbusy : t.status.busy = s.status.busy := by rfl) (hflags : t.flags = s.flags := by rfl)
    (hcmd : t.cmd = s.cmd := by rfl) (hw : t.w = s.w := by rfl) (hwl : t.wLimbs = s.wLimbs := by rfl)
    (hptl : t.ptLimbs = s.ptLimbs := by rfl) (hfault : t.uninitFault = s.uninitFault := by rfl) : t.Inv where
  status := hst
  flags := hflags ▸ h.flags
  initialised := fun hf hb => hcmd ▸
    State.readsUninitialised_congr hw hwl hptl (h.initialised (hfault ▸ hf) (hbusy ▸ hb))

/-- An idle block runs nothing, so only STATUS and FLAGS are at stake. -/
theorem State.Inv.of_idle {s : State} (hst : s.status.consistent) (hf : s.flags.atMostOne)
    (hb : s.status.busy = false) : s.Inv where
  status := hst
  flags := hf
  initialised := fun _ hb' => by simp [hb] at hb'

theorem Status.zero_consistent : Status.zero.consistent := ⟨rfl, nofun⟩

theorem Flags.zero_atMostOne : Flags.zero.atMostOne := ⟨rfl, rfl, rfl⟩

theorem Status.accepted_consistent (st : Status) : st.accepted.consistent := ⟨rfl, fun _ => ⟨rfl, rfl⟩⟩

/-- A host write to STATUS clears ERRCODE together with ERR (10_state.md R24). -/
theorem Status.clearedBy_consistent {st : Status} (h : st.consistent) (v : Word) : (st.clearedBy v).consistent := by
  obtain ⟨herr, hrun⟩ := h
  constructor
  · rw [Status.clearedBy, herr]
    cases v.getLsbD 2 <;> simp
  · intro hb
    obtain ⟨hd, he⟩ := hrun hb
    simp [Status.clearedBy, hd, he]

/-- Both ways to complete set ERR and ERRCODE together or not at all, and end BUSY (60_exceptions.md R253, R254). -/
theorem State.finish_consistent {s : State} (h : s.status.consistent) (r : Except CmdError Writes) :
    (s.finish r).status.consistent := by
  cases r with
  | ok wr => exact ⟨h.1, nofun⟩
  | error e => exact ⟨rfl, nofun⟩

/-- An unsigned comparison has one outcome (40_integer.md R116). -/
theorem compareFlags_atMostOne (a b : Value) : (compareFlags a b).atMostOne := by
  simp only [Flags.atMostOne, compareFlags, Bool.and_eq_false_iff, beq_eq_false_iff_ne, ne_eq, BitVec.ult_eq_decide,
    decide_eq_false_iff_not, ← BitVec.toNat_inj]
  omega

/-- The core's turn keeps the invariant: the block is idle after it. -/
theorem State.Inv.coreTurn {s t : State} (h : s.Inv) (ht : coreTurn s = .next t) : t.Inv := by
  rcases coreTurn_next s with ⟨-, hidle⟩ | ⟨hb, r, hr⟩
  · cases hidle.symm.trans ht
    exact h
  · have hflags := runCommand_flags (s := s) (t := t) (by rwa [Machine.coreTurn, if_pos hb] at ht)
    cases hr.symm.trans ht
    refine .of_idle (State.finish_consistent h.status r) ?_ (s.finish_status r).1
    rcases hflags with hsame | ⟨a, b, -, hcmp⟩
    · rw [hsame]; exact h.flags
    · rw [hcmp]; exact compareFlags_atMostOne _ _

/-- Acceptance records the fault of the command it starts, if it has one (60_exceptions.md R255, log 3). -/
theorem State.Inv.accept {s : State} (h : s.Inv) (v : Word) : (s.accept v).Inv where
  status := s.status.accepted_consistent
  flags := h.flags
  initialised := fun hf _ => by
    have hv : s.readsUninitialised v = false := (Bool.or_eq_false_iff.1 hf).2
    exact State.readsUninitialised_congr (s := s) rfl rfl rfl hv

/-- A limb write happens to an idle block only, where no command reads the marks it changes. -/
theorem WriteEffect.inv {s u : State} {v : Word} {l : Loc} (hu : WriteEffect s v l u) (h : s.Inv) : u.Inv := by
  cases hu with
  | readOnly | noReset => exact h
  | accepted => exact h.accept v
  | dropped => exact h.congr h.status
  | cleared => exact h.congr (Status.clearedBy_consistent h.status v)
  | softReset => exact .of_idle Status.zero_consistent Flags.zero_atMostOne rfl
  | pokedW i j hb => exact .of_idle h.status h.flags hb
  | pokedPT i c j hb => exact .of_idle h.status h.flags hb

theorem State.Inv.busWrite {s : State} (h : s.Inv) (a : Addr) (width : Nat) (v : Word) :
    (s.busWrite a width v).Inv := by
  rcases s.busWrite_cases a width v with hw | ⟨-, u, hu, hw⟩
  · rw [hw]; exact h.congr h.status
  · rw [hw]; exact (hu.inv h).congr (hu.inv h).status

theorem State.Inv.busRead {s : State} (h : s.Inv) (a : Addr) (width : Nat) : (s.busRead a width).Inv := by
  obtain ⟨_, _, _, hr, -⟩ := s.busRead_frame a width
  rw [hr]; exact h.congr h.status

theorem State.Inv.withSchedule {s : State} (h : s.Inv) (es : List Event) : (s.withSchedule es).Inv := h.congr h.status

/-- Settles O20: each kind of step keeps the invariant. -/
theorem stepKeepsInvariant : Obligations.StepKeepsInvariant := by
  unfold Obligations.StepKeepsInvariant
  intro s t h hstep
  cases stepKind_of_step hstep with
  | turn hs ht => exact (h.withSchedule _).coreTurn ht
  | hardReset hs => exact .of_idle Status.zero_consistent Flags.zero_atMostOne rfl
  | read hs => exact (h.withSchedule _).busRead _ _
  | write hs => exact (h.withSchedule _).busWrite _ _ _

/-! ## Content or a free value: the two answers of a read -/

/-- A read of a location whose value the spec states answers its content (20_memory.md R53). -/
theorem State.busRead_answers (s : State) {a : Addr} {l : Loc} (ha : accessOk a 32 = true) (hl : locate a = l)
    (hd : s.drawsAt l = false) : s.busRead a 32 = { s with response := .data a (s.storedAt l) } := by
  subst hl
  simp [State.busRead, ha, hd, State.stored]

/-- A read of a location whose value the spec leaves unspecified draws a free value (R59, R282). -/
theorem State.busRead_draws (s : State) {a : Addr} {l : Loc} (ha : accessOk a 32 = true) (hl : locate a = l)
    (hd : s.drawsAt l = true) :
    s.busRead a 32 = { s with response := .data a (Config.unspecifiedRead s.draws), draws := s.draws + 1 } := by
  subst hl
  simp [State.busRead, ha, hd]

/-! ## CTRL and the soft reset (10_state.md R26) -/

theorem accessOk_ctrlAddr : accessOk ctrlAddr 32 = true := by decide

/-- Settles O24: bit 0 of the written word picks the soft reset or no effect. -/
theorem softResetEffect : Obligations.SoftResetEffect := by
  unfold Obligations.SoftResetEffect
  intro s v
  have hwrite := s.busWrite_taken v accessOk_ctrlAddr
  rw [locate_ctrlAddr, State.writeAt] at hwrite
  refine ⟨fun hv => ?_, fun hv => ?_, s.busRead_answers accessOk_ctrlAddr locate_ctrlAddr rfl⟩
  · rw [if_pos hv] at hwrite
    rw [hwrite]
    exact ⟨Status.word_zero, Flags.word_zero, rfl, rfl, rfl, rfl, rfl, rfl, rfl, rfl⟩
  · rwa [hv, if_neg Bool.false_ne_true] at hwrite

/-! ## STATUS (10_state.md R24, 60_exceptions.md R250, R257) -/

theorem getLsbD_bitAt (b : Bool) (k n : Nat) : (bitAt b k).getLsbD n = (b && decide (k < 32) && decide (k = n)) := by
  cases b with
  | false => simp [bitAt]
  | true => simp [bitAt, BitVec.getLsbD_twoPow]

/-- The STATUS word bit by bit. -/
theorem Status.getLsbD_word (st : Status) (n : Nat) :
    st.word.getLsbD n = (st.busy && decide (0 = n) || st.done && decide (1 = n) || st.err && decide (2 = n) ||
      st.conflict && decide (3 = n) || decide (n < 32) && !decide (n < 8) && st.errcodeField.getLsbD (n - 8)) := by
  simp only [Status.word, BitVec.getLsbD_or, getLsbD_bitAt, BitVec.getLsbD_shiftLeft, BitVec.getLsbD_setWidth]
  by_cases h : n < 32
  · simp [h, show n - 8 < 32 by omega]
  · simp [h]

theorem Status.word_errcode (st : Status) : st.word.extractLsb' 8 4 = st.errcodeField := by
  apply BitVec.eq_of_getLsbD_eq
  intro b hb
  rw [BitVec.getLsbD_extractLsb', Status.getLsbD_word, Nat.add_sub_cancel_left]
  simp [hb, show ¬(0 = 8 + b) by omega, show ¬(1 = 8 + b) by omega, show ¬(2 = 8 + b) by omega,
    show ¬(3 = 8 + b) by omega, show 8 + b < 32 by omega]

/-- Bits 7:4 of STATUS are reserved. -/
theorem Status.word_reserved_low (st : Status) : st.word.extractLsb' 4 4 = 0 := by
  apply BitVec.eq_of_getLsbD_eq
  intro b hb
  rw [BitVec.getLsbD_extractLsb', Status.getLsbD_word]
  simp [show ¬(0 = 4 + b) by omega, show ¬(1 = 4 + b) by omega, show ¬(2 = 4 + b) by omega,
    show ¬(3 = 4 + b) by omega, show 4 + b < 8 by omega]

/-- Bits 31:12 of STATUS are reserved: ERRCODE has 4 bits. -/
theorem Status.word_reserved_high (st : Status) : st.word.extractLsb' 12 20 = 0 := by
  apply BitVec.eq_of_getLsbD_eq
  intro b hb
  rw [BitVec.getLsbD_extractLsb', Status.getLsbD_word, BitVec.getLsbD_of_ge _ (12 + b - 8) (by omega)]
  simp [show ¬(0 = 12 + b) by omega, show ¬(1 = 12 + b) by omega, show ¬(2 = 12 + b) by omega,
    show ¬(3 = 12 + b) by omega]

theorem Status.errcodeField_of_none {st : Status} (h : st.errcode = none) : st.errcodeField = 0 := by
  simp [Status.errcodeField, h]

theorem Status.errcodeField_of_some {st : Status} {e : CmdError} (h : st.errcode = some e) :
    st.errcodeField = e.code := by
  simp [Status.errcodeField, h]

theorem accessOk_statusAddr : accessOk statusAddr 32 = true := by decide

/-- A host write to STATUS clears the RW1C bits, whether or not BUSY = 1 (20_memory.md R63). -/
theorem State.busWrite_status (s : State) (v : Word) :
    s.busWrite statusAddr 32 v = { s.writeStatus v with response := .written statusAddr } := by
  rw [s.busWrite_taken v accessOk_statusAddr, locate_statusAddr, State.writeAt]

/-- Settles O25: the word bit by bit, and the write as `Status.clearedBy`. -/
theorem statusRegister : Obligations.StatusRegister := by
  unfold Obligations.StatusRegister
  refine ⟨fun st => ⟨?_, ?_, ?_, ?_, st.word_reserved_low, st.word_errcode, st.word_reserved_high,
    Status.errcodeField_of_none, Status.errcodeField_of_some, Status.errcodeField_of_some,
    Status.errcodeField_of_some, Status.errcodeField_of_some, Status.errcodeField_of_some,
    Status.errcodeField_of_some, Status.errcodeField_of_some⟩, fun s v => ?_⟩
  · rw [Status.getLsbD_word]; simp
  · rw [Status.getLsbD_word]; simp
  · rw [Status.getLsbD_word]; simp
  · rw [Status.getLsbD_word]; simp
  · rw [s.busWrite_status v]
    refine ⟨rfl, ?_, ?_, ?_, ?_, ?_, rfl, by constructor <;> intros <;> rfl⟩
    · simp [Status.clearedBy]
    · simp [Status.clearedBy]
    · simp [Status.clearedBy]
    · simp +contextual [Status.clearedBy]
    · simp +contextual [Status.clearedBy]

/-! ## Reads, location by location (20_memory.md R53, R57 to R59) -/

/-- The reserved addresses of the window (R58). -/
theorem locate_reserved {a : Addr}
    (h : (0x0014 ≤ a.toNat ∧ a.toNat < 0x1000) ∨ (0x1400 ≤ a.toNat ∧ a.toNat < 0x2000) ∨
      (0x2600 ≤ a.toNat ∧ a.toNat < 0x3000) ∨ 0x3140 ≤ a.toNat) : locate a = .reserved := by
  unfold locate
  simp only []
  rw [if_neg (by omega), if_neg (by omega), if_neg (by omega), if_neg (by omega), if_neg (by omega),
    dif_neg (by omega), dif_neg (by omega), dif_neg (by omega)]

/-- A read has no side effect on the block (R57). -/
theorem State.busRead_keepsBlock (s : State) (a : Addr) (width : Nat) :
    let t := s.busRead a width
    t.status = s.status ∧ t.flags = s.flags ∧ t.cmd = s.cmd ∧ t.w = s.w ∧ t.pt = s.pt ∧ t.wLimbs = s.wLimbs ∧
      t.ptLimbs = s.ptLimbs ∧ t.uninitFault = s.uninitFault ∧ t.schedule = s.schedule := by
  obtain ⟨_, _, _, h, -⟩ := s.busRead_frame a width
  simp [h]

/-- Settles O29: the address fixes the location, and the location whether its content or a free value is answered. -/
theorem readsAnswerWithoutSideEffect : Obligations.ReadsAnswerWithoutSideEffect := by
  unfold Obligations.ReadsAnswerWithoutSideEffect
  intro s a width
  refine ⟨s.busRead_keepsBlock a width, ?_⟩
  rintro rfl halign
  have hok : accessOk a 32 = true := (accessOk_iff a 32).2 ⟨rfl, halign⟩
  have haddr : ∀ {b : Addr} {l : Loc}, locate b = l → a.toNat = b.toNat → locate a = l :=
    fun hb hn => BitVec.eq_of_toNat_eq hn ▸ hb
  refine ⟨fun hn => ?id, fun hn => ?cmd, fun hn => ?status, fun hn => ?flags, fun i j hn => ?w, fun i c j hn => ?pt,
    fun r j hn => ?rom, fun hn => ?reserved⟩
  case id => exact s.busRead_answers hok (haddr (b := 0) (l := .id) rfl hn) rfl
  case cmd => exact s.busRead_answers hok (haddr locate_cmdAddr hn) rfl
  case status => exact s.busRead_answers hok (haddr locate_statusAddr hn) rfl
  case flags =>
    have hl := haddr locate_flagsAddr hn
    exact ⟨s.busRead_answers hok hl, s.busRead_draws hok hl⟩
  case w =>
    have hl := haddr (locate_wAddr i j) (hn.trans (wAddr_toNat i j).symm)
    exact ⟨fun hb hm => s.busRead_answers hok hl (by simp [State.drawsAt, hb, hm]),
      fun hd => s.busRead_draws hok hl (by simpa [State.drawsAt] using hd)⟩
  case pt =>
    have hl := haddr (locate_ptAddr i c j) (hn.trans (ptAddr_toNat i c j).symm)
    exact ⟨fun hb hm => s.busRead_answers hok hl (by simp [State.drawsAt, hb, hm]),
      fun hd => s.busRead_draws hok hl (by simpa [State.drawsAt] using hd)⟩
  case rom =>
    exact s.busRead_answers hok (haddr (locate_romAddr r j) (hn.trans (romAddr_toNat r j).symm)) rfl
  case reserved =>
    by_cases hctrl : a.toNat = 0x0010
    · exact s.busRead_answers hok (haddr locate_ctrlAddr hctrl) rfl
    · exact s.busRead_answers hok (locate_reserved (by omega)) rfl

end Sys2Proof.Machine
end

section
/-! Proofs about the register window (20_memory.md): where each location stands and which bytes it holds, what a limb
write and a refused or ignored access do, and what a command may change or depend on, seen through the window. -/

namespace Sys2Proof.Machine

/-! ## Refused and ignored accesses (R55, R58) -/

theorem accessOk_eq_false {a : Addr} {width : Nat} (h : width ≠ 32 ∨ a.toNat % 4 ≠ 0) : accessOk a width = false := by
  rw [Bool.eq_false_iff, ne_eq, accessOk_iff]
  omega

/-- Settles O31: neither access gets past the bus's check. -/
theorem refusedAccessChangesNothing : Obligations.RefusedAccessChangesNothing := by
  unfold Obligations.RefusedAccessChangesNothing
  intro s a width v h
  have hok := accessOk_eq_false h
  exact ⟨s.busRead_refused hok, s.busWrite_refused v hok⟩

/-- A write at a read-only or reserved location has no effect. -/
theorem State.writeAt_readOnly (s : State) {l : Loc} (v : Word) (hl : l.readOnly = true) : s.writeAt l v = s := by
  cases l with
  | id | flags | rom | reserved => rfl
  | cmd | status | ctrl | w | pt => cases hl

/-- The ROM window (R51). -/
theorem locate_rom {a : Addr} (h : 0x3000 ≤ a.toNat ∧ a.toNat < 0x3140) : ∃ r j, locate a = .rom r j := by
  unfold locate
  simp only []
  rw [if_neg (by omega), if_neg (by omega), if_neg (by omega), if_neg (by omega), if_neg (by omega),
    dif_neg (by omega), dif_neg (by omega), dif_pos h]
  exact ⟨_, _, rfl⟩

/-- ID, FLAGS, the ROM window and the reserved addresses are read-only (R58). -/
theorem locate_readOnly {a : Addr}
    (h : a.toNat = 0 ∨ a.toNat = 0x000C ∨ (0x0014 ≤ a.toNat ∧ a.toNat < 0x1000) ∨
      (0x1400 ≤ a.toNat ∧ a.toNat < 0x2000) ∨ 0x2600 ≤ a.toNat) : (locate a).readOnly = true := by
  by_cases hid : a.toNat = 0
  · rw [show a = 0 from BitVec.eq_of_toNat_eq hid]; rfl
  by_cases hflags : a.toNat = 0x000C
  · rw [show a = flagsAddr from BitVec.eq_of_toNat_eq hflags, locate_flagsAddr]; rfl
  by_cases hrom : 0x3000 ≤ a.toNat ∧ a.toNat < 0x3140
  · obtain ⟨r, j, hl⟩ := locate_rom hrom
    rw [hl]; rfl
  · rw [locate_reserved (by omega)]; rfl

/-- Settles O30: the bus takes the access, and the location is read-only. -/
theorem readOnlyWritesAreIgnored : Obligations.ReadOnlyWritesAreIgnored := by
  unfold Obligations.ReadOnlyWritesAreIgnored
  intro s a v halign h
  rw [s.busWrite_taken v ((accessOk_iff a 32).2 ⟨rfl, halign⟩), s.writeAt_readOnly v (locate_readOnly h)]

/-! ## A running command's operands (R61) -/

/-- A write to a block that runs before and after it changes STATUS at most. -/
theorem WriteEffect.keepsOperands {s u : State} {v : Word} {l : Loc} (hu : WriteEffect s v l u)
    (hb : s.status.busy = true) (hb' : u.status.busy = true) :
    u.w = s.w ∧ u.pt = s.pt ∧ u.flags = s.flags ∧ u.cmd = s.cmd ∧ u.wLimbs = s.wLimbs ∧ u.ptLimbs = s.ptLimbs := by
  cases hu with
  | readOnly | noReset | dropped | cleared => exact ⟨rfl, rfl, rfl, rfl, rfl, rfl⟩
  | softReset => cases hb'
  | accepted hidle => simp [hb] at hidle
  | pokedW i j hidle => simp [hb] at hidle
  | pokedPT i c j hidle => simp [hb] at hidle

/-- Settles O10: the core's turn and the resets end the command, a read has no side effect, and every other write is
dropped, ignored or meant for STATUS. -/
theorem runningCommandKeepsItsOperands : Obligations.RunningCommandKeepsItsOperands := by
  unfold Obligations.RunningCommandKeepsItsOperands
  intro s t hb h hb'
  cases stepKind_of_step h with
  | turn hs ht =>
    rcases coreTurn_next (s.withSchedule s.schedule.tail) with ⟨hidle, -⟩ | ⟨-, r, hr⟩
    · simp [hb] at hidle
    · cases hr.symm.trans ht
      obtain ⟨hbusy, -, -, -⟩ := State.finish_status (s.withSchedule s.schedule.tail) r
      simp [hbusy] at hb'
  | hardReset hs => cases hb'
  | @read a width es hs =>
    obtain ⟨_, _, _, hread, -⟩ := (s.withSchedule es).busRead_frame a width
    rw [hread]
    exact ⟨rfl, rfl, rfl, rfl, rfl, rfl⟩
  | @write a width v es hs =>
    rcases (s.withSchedule es).busWrite_cases a width v with hw | ⟨-, u, hu, hw⟩
    · rw [hw]
      exact ⟨rfl, rfl, rfl, rfl, rfl, rfl⟩
    · rw [hw] at hb' ⊢
      exact hu.keepsOperands hb hb'

/-! ## What a command depends on (R61, 70_reset_and_hazards.md R293) -/

/-- Which W registers a command reads does not depend on the state: KDRV picks between PT registers only
(44_key.md R202). -/
theorem mem_sources_w {i : Instr} {r : WReg} {s t : State} (h : Source.w r ∈ sources i s) : Source.w r ∈ sources i t := by
  cases i with
  | kdrv d a b =>
    rcases List.mem_append.1 h with h | h
    · exact List.mem_append_left _ h
    · split at h
      · simp at h
      · split at h <;> simp at h
  | _ => exact h

/-- States that agree on a command's initialised sources give it the same operands. -/
theorem SameOperands.of_marked {i : Instr} {s t : State} (hs : s.sourcesMarked i = true) (ht : t.sourcesMarked i = true)
    (hw : ∀ r, Source.w r ∈ sources i s → s.w[r] = t.w[r]) (hpt : ∀ r, Source.pt r ∈ sources i s → s.pt[r] = t.pt[r]) :
    SameOperands i s t := by
  rw [State.sourcesMarked, List.all_eq_true] at hs ht
  have hsrcW : ∀ r, Source.w r ∈ sources i s → t.srcW r = s.srcW r := fun r hr => by
    rw [s.srcW_of_marked (hs _ hr), t.srcW_of_marked (ht _ (mem_sources_w hr)), hw r hr]
  rw [sources_congr hsrcW] at ht
  exact ⟨hsrcW, fun r hr => by rw [s.srcPT_of_marked (hs _ hr), t.srcPT_of_marked (ht _ hr), hpt r hr]⟩

/-- A completion gives its W destination the same value in every state. -/
theorem State.complete_w_alike (s t : State) {wr : Writes} {d : WReg} (h : wr.w.map Prod.fst = some d) :
    (s.complete wr).w[d] = (t.complete wr).w[d] := by
  obtain ⟨_ | ⟨d, v⟩, pt, flags⟩ := wr
  · cases h
  · cases h
    cases pt <;> cases flags <;> simp [State.complete, State.perform]

/-- A completion gives its PT destination the same point in every state. -/
theorem State.complete_pt_alike (s t : State) {wr : Writes} {d : PReg} (h : wr.pt.map Prod.fst = some d) :
    (s.complete wr).pt[d] = (t.complete wr).pt[d] := by
  obtain ⟨w, _ | ⟨d, p⟩, flags⟩ := wr
  · cases h
  · cases h
    cases w <;> cases flags <;> simp [State.complete, State.perform]

/-- A completion that writes FLAGS writes the same FLAGS in every state. -/
theorem State.complete_flags_alike (s t : State) {wr : Writes} (h : wr.flags.isSome = true) :
    (s.complete wr).flags = (t.complete wr).flags := by
  obtain ⟨f, hf⟩ := Option.isSome_iff_exists.1 h
  rw [State.complete_flags, State.complete_flags, hf, Option.getD_some, Option.getD_some]

/-- STATUS after a completion depends on STATUS before it and on the result only. -/
theorem State.finish_status_congr {s t : State} (h : s.status = t.status) (r : Except CmdError Writes) :
    (s.finish r).status = (t.finish r).status := by
  cases r with
  | ok wr => exact congrArg Status.completed h
  | error e => exact congrArg (Status.failed · e) h

/-- Settles O18: the two states give the command the same operands, so it ends with the same result in both. -/
theorem resultsDependOnlyOnSources : Obligations.ResultsDependOnlyOnSources := by
  unfold Obligations.ResultsDependOnlyOnSources
  intro i s s' t t' hst hs hs' hw hpt ht ht'
  obtain ⟨r, hr, hr', hshape⟩ := exec_finishes_alike i s s' (.of_marked hs hs' hw hpt)
  cases hr.symm.trans ht
  cases hr'.symm.trans ht'
  refine ⟨State.finish_status_congr hst r, fun herr => ?_⟩
  cases r with
  | error e => cases herr
  | ok wr =>
    exact ⟨fun d hd => s.complete_w_alike s' ((hshape.w wr rfl).trans hd),
      fun d hd => s.complete_pt_alike s' ((hshape.pt wr rfl).trans hd),
      fun hcmp => s.complete_flags_alike s' ((hshape.flags wr rfl).trans hcmp)⟩

/-! ## The window's layout (R52, R54) -/

theorem State.stored_wAddr (s : State) (i : WReg) (j : Fin 16) : s.stored (wAddr i j) = limb s.w[i] j := by
  rw [State.stored, locate_wAddr, State.storedAt]

theorem State.stored_ptAddr (s : State) (i : PReg) (c : Fin 3) (j : Fin 16) :
    s.stored (ptAddr i c j) = limb (s.pt[i].coord c) j := by
  rw [State.stored, locate_ptAddr, State.storedAt]

theorem State.stored_romAddr (s : State) (r : Fin 5) (j : Fin 16) : s.stored (romAddr r j) = limb rom[r] j := by
  rw [State.stored, locate_romAddr, State.storedAt]

/-- The mask of `State.windowByte` clears bits 1:0 of the address. -/
theorem toNat_and_aligned (a : Addr) : (a &&& 0xFFFC#16).toNat = 4 * (a.toNat / 4) := by
  have hmask : ∀ n < 16, (0xFFFC#16).getLsbD n = decide (2 ≤ n) := by decide
  have hshift : a &&& 0xFFFC#16 = a >>> 2 <<< 2 := by
    apply BitVec.eq_of_getLsbD_eq
    intro n hn
    rw [BitVec.getLsbD_and, hmask n hn, BitVec.getLsbD_shiftLeft, BitVec.getLsbD_ushiftRight]
    by_cases h : n < 2
    · simp [h]
    · simp [h, hn, show 2 ≤ n by omega]
  rw [hshift, BitVec.toNat_shiftLeft, BitVec.toNat_ushiftRight, Nat.shiftRight_eq_div_pow, Nat.shiftLeft_eq]
  omega

/-- Byte lane k of limb j is byte 4j + k of the value. -/
theorem byteLane_limb (v : Value) (j : Fin 16) (k : Fin 4) :
    byteLane (limb v j) k = v.extractLsb' (8 * (4 * j.val + k.val)) 8 := by
  apply BitVec.eq_of_getLsbD_eq
  intro b hb
  rw [byteLane, BitVec.getLsbD_extractLsb', getLsbD_limb _ _ _ (by omega), BitVec.getLsbD_extractLsb',
    show 32 * j.val + (8 * k.val + b) = 8 * (4 * j.val + k.val) + b by omega]

/-- Byte m of the window of W[i] is byte m of its value. -/
theorem State.windowByte_w (s : State) (i : WReg) {m : Nat} (hm : m < 64) :
    s.windowByte (BitVec.ofNat 16 (0x1000 + 0x40 * i.val + m)) = s.w[i].extractLsb' (8 * m) 8 := by
  have hi := i.isLt
  have hnat : (BitVec.ofNat 16 (0x1000 + 0x40 * i.val + m)).toNat = 0x1000 + 0x40 * i.val + m := by
    rw [BitVec.toNat_ofNat]; omega
  have haddr : BitVec.ofNat 16 (0x1000 + 0x40 * i.val + m) &&& 0xFFFC#16 = wAddr i ⟨m / 4, by omega⟩ := by
    apply BitVec.eq_of_toNat_eq
    rw [toNat_and_aligned, hnat, wAddr_toNat]
    change _ = 0x1000 + 0x40 * i.val + 4 * (m / 4)
    omega
  rw [State.windowByte, haddr, s.stored_wAddr, byteLane_limb]
  simp only [hnat]
  rw [show 4 * (m / 4) + (0x1000 + 0x40 * i.val + m) % 4 = m by omega]

/-- Settles O26: each address is that of its limb, and a limb's byte lanes are bytes of the value. -/
theorem windowLayoutIsLittleEndian : Obligations.WindowLayoutIsLittleEndian := by
  unfold Obligations.WindowLayoutIsLittleEndian
  intro s
  refine ⟨fun j => ⟨fun i => s.stored_wAddr i j, fun i => ⟨?_, ?_, ?_⟩, fun r => s.stored_romAddr r j⟩,
    fun i m hm => s.windowByte_w i hm⟩
  · exact s.stored_ptAddr i 0 j
  · exact s.stored_ptAddr i 1 j
  · exact s.stored_ptAddr i 2 j

/-! ## Limb writes (R52, 70_reset_and_hazards.md R282) -/

/-- Counting a limb as written sets its bit and keeps the others. -/
theorem getLsbD_or_twoPow {n : Nat} (x : BitVec n) {j k : Nat} (hk : k < n) :
    (x ||| BitVec.twoPow n j).getLsbD k = (decide (k = j) || x.getLsbD k) := by
  rw [BitVec.getLsbD_or, BitVec.getLsbD_twoPow, Bool.or_comm]
  by_cases h : k = j
  · subst h; simp [hk]
  · simp [h, Ne.symm h]

theorem State.pokeW_limb (s : State) (i : WReg) (j k : Fin 16) (v : Word) :
    limb (s.pokeW i j v).w[i] k = if k = j then v else limb s.w[i] k := by
  rw [← limb_setLimb]
  simp

theorem State.pokeW_other (s : State) {i k : WReg} (h : k ≠ i) (j : Fin 16) (v : Word) :
    (s.pokeW i j v).w[k] = s.w[k] ∧ (s.pokeW i j v).wLimbs[k] = s.wLimbs[k] := by
  simp [Fin.val_ne_of_ne h.symm]

theorem State.pokeW_counts (s : State) (i : WReg) (j k : Fin 16) (v : Word) :
    (s.pokeW i j v).wLimbs[i].getLsbD k.val = (decide (k = j) || s.wLimbs[i].getLsbD k.val) := by
  simp only [State.pokeW_wLimbs, Fin.getElem_fin, Vector.getElem_set_self, getLsbD_or_twoPow _ k.isLt, Fin.ext_iff]

theorem State.pokePT_limb (s : State) (i : PReg) (c d : Fin 3) (j k : Fin 16) (v : Word) :
    limb ((s.pokePT i c j v).pt[i].coord d) k = if d = c ∧ k = j then v else limb (s.pt[i].coord d) k := by
  simp only [State.pokePT_pt, Fin.getElem_fin, Vector.getElem_set_self]
  by_cases hd : d = c
  · subst hd
    simp [limb_setLimb]
  · rw [Point.coord_setCoord_other _ hd, if_neg (fun h => hd h.1)]

theorem State.pokePT_other (s : State) {i k : PReg} (h : k ≠ i) (c : Fin 3) (j : Fin 16) (v : Word) :
    (s.pokePT i c j v).pt[k] = s.pt[k] ∧ (s.pokePT i c j v).ptLimbs[k] = s.ptLimbs[k] := by
  simp [Fin.val_ne_of_ne h.symm]

theorem State.pokePT_counts (s : State) (i : PReg) (c d : Fin 3) (j k : Fin 16) (v : Word) :
    (s.pokePT i c j v).ptLimbs[i].getLsbD (16 * d.val + k.val) =
      (decide (d = c ∧ k = j) || s.ptLimbs[i].getLsbD (16 * d.val + k.val)) := by
  have hiff : 16 * d.val + k.val = 16 * c.val + j.val ↔ d = c ∧ k = j := by omega
  simp only [State.pokePT_ptLimbs, Fin.getElem_fin, Vector.getElem_set_self,
    getLsbD_or_twoPow _ (show 16 * d.val + k.val < 48 by omega), hiff]

/-- Settles O27: an idle block's limb write is `State.pokeW` or `State.pokePT`, limb by limb and mark by mark. -/
theorem limbWriteReplacesItsBits : Obligations.LimbWriteReplacesItsBits := by
  unfold Obligations.LimbWriteReplacesItsBits
  intro s j v hb
  refine ⟨fun i => ?_, fun i c => ?_, fun i => by simp, fun i => by simp⟩
  · rw [s.busWrite_w v hb]
    refine ⟨fun k => s.pokeW_limb i j k v, fun k hk => s.pokeW_other hk j v, fun k => s.pokeW_counts i j k v,
      State.wMarked_iff _ i, rfl, rfl, rfl, rfl, rfl, fun hm => ?_⟩
    rw [State.busRead_w _ (by exact hb) hm]
    exact congrArg (Response.data _) ((s.pokeW_limb i j j v).trans (if_pos rfl))
  · rw [s.busWrite_pt v hb]
    refine ⟨fun d k => s.pokePT_limb i c d j k v, fun k hk => s.pokePT_other hk c j v,
      fun d k => s.pokePT_counts i c d j k v, State.ptMarked_iff _ i, rfl, rfl, rfl, rfl, rfl, fun hm => ?_⟩
    rw [State.busRead_pt _ (by exact hb) hm]
    exact congrArg (Response.data _) ((s.pokePT_limb i c c j j v).trans (if_pos ⟨rfl, rfl⟩))

/-! ## What a command changes, seen as bytes (R52, R54) -/

/-- The offset in the window of a location that is not reserved (R51, R52). -/
def Loc.offset : Loc → Nat
  | .id => 0x0000
  | .cmd => 0x0004
  | .status => 0x0008
  | .flags => 0x000C
  | .ctrl => 0x0010
  | .w i j => 0x1000 + 0x40 * i.val + 4 * j.val
  | .pt i c j => 0x2000 + 0xC0 * i.val + 0x40 * c.val + 4 * j.val
  | .rom r j => 0x3000 + 0x40 * r.val + 4 * j.val
  | .reserved => 0

/-- Only the aligned address at a location's offset is that location's. -/
theorem toNat_of_locate {a : Addr} {l : Loc} (h : locate a = l) (hl : l ≠ .reserved) (halign : a.toNat % 4 = 0) :
    a.toNat = l.offset := by
  unfold locate at h
  simp only [] at h
  repeat' split at h
  -- The last branch of the map is the reserved one.
  pick_goal 9
  · exact absurd h.symm hl
  all_goals
    subst h
    dsimp only [Loc.offset]
    omega

/-- The word that holds a byte of the window stands at its location's offset. -/
theorem offset_of_locate_word {a : Addr} {l : Loc} (h : locate (a &&& 0xFFFC#16) = l) (hl : l ≠ .reserved) :
    4 * (a.toNat / 4) = l.offset := by
  have hnat := toNat_and_aligned a
  rw [← hnat, toNat_of_locate h hl (by omega)]

/-- A command changes no location but its destinations' limbs, STATUS and, for CMP, FLAGS. -/
theorem storedAt_of_exec {i : Instr} {s t : State} (h : exec i s = .next t) {l : Loc} (hstatus : l ≠ .status)
    (hflags : l = .flags → isCmp i = false) (hw : ∀ k j, l = .w k j → destW i ≠ some k)
    (hpt : ∀ k c j, l = .pt k c j → destPT i ≠ some k) : t.storedAt l = s.storedAt l := by
  obtain ⟨hsame, hkeepsFlags, -⟩ := commandsChangeOnlyTheirDestinations i s t h
  cases l with
  | id | ctrl | rom | reserved => rfl
  | cmd => exact hsame.cmd
  | status => exact absurd rfl hstatus
  | flags => exact congrArg Flags.word (hkeepsFlags (hflags rfl))
  | w k j => exact congrArg (limb · j) (hsame.w k (hw k j rfl))
  | pt k c j => exact congrArg (fun p => limb (p.coord c) j) (hsame.pt k (hpt k c j rfl))

/-- Settles O16: the word that holds the byte is at a location the command keeps. -/
theorem commandsChangeOnlyTheirWindowBytes : Obligations.CommandsChangeOnlyTheirWindowBytes := by
  unfold Obligations.CommandsChangeOnlyTheirWindowBytes
  intro i s t a h hkeep
  simp only [commandMayChange, Bool.or_eq_false_iff, Bool.and_eq_false_iff, decide_eq_false_iff_not] at hkeep
  obtain ⟨⟨⟨hnotW, hnotPT⟩, hnotStatus⟩, hnotFlags⟩ := hkeep
  have hword : t.stored (a &&& 0xFFFC#16) = s.stored (a &&& 0xFFFC#16) := by
    refine storedAt_of_exec h (fun hl => ?status) (fun hl => ?flags) (fun k j hl hd => ?w) (fun k c j hl hd => ?pt)
    case status =>
      have hoff : 4 * (a.toNat / 4) = 0x0008 := offset_of_locate_word hl nofun
      omega
    case flags =>
      have hoff : 4 * (a.toNat / 4) = 0x000C := offset_of_locate_word hl nofun
      rcases hnotFlags with (hcmp | hlow) | hhigh
      · exact hcmp
      · omega
      · omega
    case w =>
      have hoff : 4 * (a.toNat / 4) = 0x1000 + 0x40 * k.val + 4 * j.val := offset_of_locate_word hl nofun
      simp only [hd, Option.any_some, inWWindow, Bool.and_eq_false_iff, decide_eq_false_iff_not] at hnotW
      omega
    case pt =>
      have hoff : 4 * (a.toNat / 4) = 0x2000 + 0xC0 * k.val + 0x40 * c.val + 4 * j.val :=
        offset_of_locate_word hl nofun
      simp only [hd, Option.any_some, inPTWindow, Bool.and_eq_false_iff, decide_eq_false_iff_not] at hnotPT
      omega
  rw [State.windowByte, State.windowByte, hword]

end Sys2Proof.Machine
end

section
/-! Proofs about decoding and encoding (30_encoding.md): each operand form reads back the fields it was written with,
what the decoder can answer, said once, and the step that runs a decoded word. -/

namespace Sys2Proof

open Machine

/-! ## Each operand form on the word of its fields (R81, R82) -/

section RoundTrip

variable {op : Nat} (ho : op < 256)

include ho

theorem decodeWWW_rWord (mk : WReg → WReg → WReg → Instr) (d a b : WReg) :
    decodeWWW mk (rWord op d a b) = .ok (mk d a b) := by
  rw [decodeWWW, if_pos (immField_rWord ho d.isLt a.isLt b.isLt), Fin.ext (dField_rWord ho d.isLt),
    Fin.ext (aField_rWord ho d.isLt a.isLt), Fin.ext (bField_rWord ho d.isLt a.isLt b.isLt)]

theorem decodeWWI_iWord (mk : WReg → WReg → Imm12 → Instr) (d a : WReg) (imm : Imm12) :
    decodeWWI mk (iWord op d a imm) = .ok (mk d a imm) := by
  rw [decodeWWI, if_pos (Fin.ext (bField_iWord imm ho d.isLt a.isLt)), Fin.ext (dField_iWord imm ho d.isLt),
    Fin.ext (aField_iWord imm ho d.isLt a.isLt), immField_iWord imm ho d.isLt a.isLt]

theorem decodeNWW_rWord (mk : WReg → WReg → Instr) (a b : WReg) : decodeNWW mk (rWord op 0 a b) = .ok (mk a b) := by
  have hd : 0 < 16 := by decide
  rw [decodeNWW, if_pos ⟨immField_rWord ho hd a.isLt b.isLt, Fin.ext (dField_rWord ho hd)⟩,
    Fin.ext (aField_rWord ho hd a.isLt), Fin.ext (bField_rWord ho hd a.isLt b.isLt)]

theorem decodeWWN_rWord (mk : WReg → WReg → Instr) (d a : WReg) : decodeWWN mk (rWord op d a 0) = .ok (mk d a) := by
  have hb : 0 < 16 := by decide
  rw [decodeWWN, if_pos ⟨immField_rWord ho d.isLt a.isLt hb, Fin.ext (bField_rWord ho d.isLt a.isLt hb)⟩,
    Fin.ext (dField_rWord ho d.isLt), Fin.ext (aField_rWord ho d.isLt a.isLt)]

theorem decodeWNI_iWord (mk : WReg → Imm12 → Instr) (d : WReg) {idx : Imm12} (hidx : romIndexOk idx = true) :
    decodeWNI mk (iWord op d 0 idx) = .ok (mk d idx) := by
  have ha : 0 < 16 := by decide
  rw [decodeWNI, immField_iWord idx ho d.isLt ha,
    if_pos ⟨Fin.ext (bField_iWord idx ho d.isLt ha), Fin.ext (aField_iWord idx ho d.isLt ha), hidx⟩,
    Fin.ext (dField_iWord idx ho d.isLt)]

variable (d a b : Fin 8)

theorem decodePNN_rWord (mk : PReg → Instr) : decodePNN mk (rWord op d 0 0) = .ok (mk d) := by
  have h0 : 0 < 16 := by decide
  have hd : d.val < 16 := by omega
  simp [decodePNN, Fin.ext_iff, immField_rWord ho hd h0 h0, dField_rWord ho hd, aField_rWord ho hd h0,
    bField_rWord ho hd h0 h0]

theorem decodePPN_rWord (mk : PReg → PReg → Instr) : decodePPN mk (rWord op d a 0) = .ok (mk d a) := by
  have h0 : 0 < 16 := by decide
  have hd : d.val < 16 := by omega
  have ha : a.val < 16 := by omega
  simp [decodePPN, Fin.ext_iff, immField_rWord ho hd ha h0, dField_rWord ho hd, aField_rWord ho hd ha,
    bField_rWord ho hd ha h0]

theorem decodePPP_rWord (mk : Fin 8 → Fin 8 → Fin 8 → Instr) : decodePPP mk (rWord op d a b) = .ok (mk d a b) := by
  have hd : d.val < 16 := by omega
  have ha : a.val < 16 := by omega
  have hb : b.val < 16 := by omega
  simp [decodePPP, immField_rWord ho hd ha hb, dField_rWord ho hd, aField_rWord ho hd ha, bField_rWord ho hd ha hb]

theorem decodePPW_rWord (mk : PReg → PReg → WReg → Instr) (b : WReg) :
    decodePPW mk (rWord op d a b) = .ok (mk d a b) := by
  have hd : d.val < 16 := by omega
  have ha : a.val < 16 := by omega
  simp [decodePPW, immField_rWord ho hd ha b.isLt, dField_rWord ho hd, aField_rWord ho hd ha,
    Fin.ext (bField_rWord ho hd ha b.isLt)]

theorem decodeKWN_rWord (mk : Slot → WReg → Instr) (a : WReg) : decodeKWN mk (rWord op d a 0) = .ok (mk d a) := by
  have h0 : 0 < 16 := by decide
  have hd : d.val < 16 := by omega
  simp [decodeKWN, Fin.ext_iff (n := 16) (b := 0), immField_rWord ho hd a.isLt h0, dField_rWord ho hd,
    Fin.ext (aField_rWord ho hd a.isLt), bField_rWord ho hd a.isLt h0]

theorem decodeWPN_rWord (mk : WReg → PReg → Instr) (d : WReg) : decodeWPN mk (rWord op d a 0) = .ok (mk d a) := by
  have h0 : 0 < 16 := by decide
  have ha : a.val < 16 := by omega
  simp [decodeWPN, Fin.ext_iff (n := 16) (b := 0), immField_rWord ho d.isLt ha h0, Fin.ext (dField_rWord ho d.isLt),
    aField_rWord ho d.isLt ha, bField_rWord ho d.isLt ha h0]

end RoundTrip

theorem Instr.opcode_lt (i : Instr) : i.opcode < 256 := by
  cases i <;> simp [Instr.opcode]

/-- The laws `OpcodeField`, for every command at once. -/
theorem opField_encode (i : Instr) : opField (encode i) = i.opcode := by
  have ho := i.opcode_lt
  cases i with
  | shli d a imm | shri d a imm => exact opField_iWord imm ho
  | ldc d idx => exact opField_iWord idx ho
  | _ => exact opField_rWord ho

/-- R85 read both ways: the command's opcode picks its row, and the row's form reads its fields back. -/
theorem decode_encode {i : Instr} (h : i.wellFormed = true) : decode (encode i) = .ok i := by
  have ho := i.opcode_lt
  have hop := opField_encode i
  cases i
  all_goals
    simp only [encode, Instr.opcode] at ho hop ⊢
    simp only [decode, hop]
  case add d a b | sub d a b | mul d a b | div d a b | rem d a b | and d a b | or d a b | xor d a b | shl d a b
  | shr d a b | invmod d a b => exact decodeWWW_rWord ho _ d a b
  case shli d a imm | shri d a imm => exact decodeWWI_iWord ho _ d a imm
  case cmp a b => exact decodeNWW_rWord ho _ a b
  case cvt64 d a => exact decodeWWN_rWord ho _ d a
  case ldc d idx => exact decodeWNI_iWord ho _ d h
  case pldg d => exact decodePNN_rWord ho d _
  case pneg d a | pdbl d a | paff d a => exact decodePPN_rWord ho d a _
  case padd d a b | kdrv d a b => exact decodePPP_rWord ho d a b _
  case smul d a b => exact decodePPW_rWord ho d a _ b
  case kpub d a | unpack d a => exact decodeKWN_rWord ho d _ a
  case pack d a => exact decodeWPN_rWord ho a _ d

/-- Settles O1: `decode_encode`. -/
theorem decodeEncodeRoundTrip : Obligations.DecodeEncodeRoundTrip := by
  unfold Obligations.DecodeEncodeRoundTrip
  exact fun _ => decode_encode

/-! ## A word from its fields (R81, R82) -/

theorem field_toNat (c : Word) (start len : Nat) :
    (c.extractLsb' start len).toNat = c.toNat / 2 ^ start % 2 ^ len := by
  rw [BitVec.extractLsb'_toNat, Nat.shiftRight_eq_div_pow]

theorem opField_eq (c : Word) : opField c = c.toNat % 256 := by
  rw [opField, field_toNat, pow_zero, Nat.div_one]; rfl
theorem dField_val (c : Word) : (dField c).val = c.toNat / 2 ^ 8 % 2 ^ 4 := field_toNat c 8 4
theorem aField_val (c : Word) : (aField c).val = c.toNat / 2 ^ 12 % 2 ^ 4 := field_toNat c 12 4
theorem bField_val (c : Word) : (bField c).val = c.toNat / 2 ^ 16 % 2 ^ 4 := field_toNat c 16 4
theorem immField_toNat (c : Word) : (immField c).toNat = c.toNat / 2 ^ 20 % 2 ^ 12 := field_toNat c 20 12

section Fields

variable {c : Word} {op d a b : Nat} (hop : opField c = op) (hd : (dField c).val = d) (ha : (aField c).val = a)

include hop hd ha

theorem rWord_eq_of_fields (hb : (bField c).val = b) (himm : immField c = 0) : rWord op d a b = c := by
  have himm : c.toNat / 2 ^ 20 % 2 ^ 12 = 0 := by rw [← immField_toNat, himm]; rfl
  apply BitVec.eq_of_toNat_eq
  rw [rWord, BitVec.toNat_ofNat, ← hop, ← hd, ← ha, ← hb, opField_eq, dField_val, aField_val, bField_val]
  omega

theorem iWord_eq_of_fields (hb : bField c = 0) : iWord op d a (immField c) = c := by
  have hb : c.toNat / 2 ^ 16 % 2 ^ 4 = 0 := by rw [← bField_val, hb]; rfl
  apply BitVec.eq_of_toNat_eq
  rw [iWord, BitVec.toNat_ofNat, ← hop, ← hd, ← ha, opField_eq, dField_val, aField_val, immField_toNat]
  omega

end Fields

/-! ## What a row's form answers (R87) -/

@[simp] theorem Machine.FieldKind.legal_w (n : Nat) : FieldKind.w.legal n = true := rfl
@[simp] theorem Machine.FieldKind.legal_p (n : Nat) : FieldKind.p.legal n = true ↔ n < 8 := decide_eq_true_iff
@[simp] theorem Machine.FieldKind.legal_k (n : Nat) : FieldKind.k.legal n = true ↔ n < 8 := decide_eq_true_iff
@[simp] theorem Machine.FieldKind.legal_unused (n : Nat) : FieldKind.unused.legal n = true ↔ n = 0 := beq_iff_eq

/-- The conditions of R87 in terms of the decoder's fields: none of them holds. -/
theorem illegalOperand_eq_false_iff (row : OpcodeRow) (c : Word) :
    row.illegalOperand c = false ↔
      (row.format = .r → immField c = 0) ∧ (row.format = .i → bField c = 0) ∧
        row.d.legal (dField c) = true ∧ row.a.legal (aField c) = true ∧ row.b.legal (bField c) = true ∧
        (row.op = 0x10 → romIndexOk (immField c) = true) := by
  have hb : c.extractLsb' 16 4 = 0 ↔ bField c = 0 := by rw [Fin.ext_iff, ← BitVec.toNat_inj]; rfl
  have hrom : ¬5 ≤ (c.extractLsb' 20 12).toNat ↔ romIndexOk (immField c) = true := by
    rw [romIndexOk, decide_eq_true_iff, not_le]; rfl
  rw [← hb, ← hrom]
  simp [OpcodeRow.illegalOperand, and_assoc, dField, aField, bField, immField]

/-- The answer of a row's operand form: the one well-formed command that encodes as the word, or ILLEGAL_OPERAND
when a condition of R87 holds. -/
inductive RowAnswer (row : OpcodeRow) (c : Word) : Except DecodeError Instr → Prop where
  | ok {i : Instr} (hlegal : row.illegalOperand c = false) (hwf : i.wellFormed = true) (henc : encode i = c) :
    RowAnswer row c (.ok i)
  | illegal (h : row.illegalOperand c = true) : RowAnswer row c (.error .illegalOperand)

/-- A form that tests exactly the conditions of its row. -/
theorem RowAnswer.of_dite {row : OpcodeRow} {c : Word} {p : Prop} [Decidable p] {f : p → Instr}
    (hp : row.illegalOperand c = false ↔ p) (hf : ∀ h, (f h).wellFormed = true ∧ encode (f h) = c) :
    RowAnswer row c (if h : p then .ok (f h) else .error .illegalOperand) := by
  split
  · next h => exact .ok (hp.2 h) (hf h).1 (hf h).2
  · next h => exact .illegal (Bool.eq_true_of_not_eq_false fun hfalse => h (hp.1 hfalse))

theorem RowAnswer.of_ite {row : OpcodeRow} {c : Word} {p : Prop} [Decidable p] {i : Instr}
    (hp : row.illegalOperand c = false ↔ p) (hi : p → i.wellFormed = true ∧ encode i = c) :
    RowAnswer row c (if p then .ok i else .error .illegalOperand) := .of_dite hp hi

section Forms

variable {c : Word} {op : Nat} (hop : opField c = op) (hldc : op ≠ 0x10)

include hop hldc

theorem decodeWWW_answer {mk : WReg → WReg → WReg → Instr}
    (hmk : ∀ d a b, (mk d a b).wellFormed = true ∧ encode (mk d a b) = rWord op d a b) :
    RowAnswer ⟨op, .r, .w, .w, .w⟩ c (decodeWWW mk c) :=
  .of_ite (by simp [illegalOperand_eq_false_iff, hldc]) fun himm =>
    ⟨(hmk ..).1, (hmk ..).2.trans (rWord_eq_of_fields hop rfl rfl rfl himm)⟩

theorem decodeWWI_answer {mk : WReg → WReg → Imm12 → Instr}
    (hmk : ∀ d a imm, (mk d a imm).wellFormed = true ∧ encode (mk d a imm) = iWord op d a imm) :
    RowAnswer ⟨op, .i, .w, .w, .unused⟩ c (decodeWWI mk c) :=
  .of_ite (by simp [illegalOperand_eq_false_iff, hldc]) fun hb =>
    ⟨(hmk ..).1, (hmk ..).2.trans (iWord_eq_of_fields hop rfl rfl hb)⟩

theorem decodeNWW_answer {mk : WReg → WReg → Instr}
    (hmk : ∀ a b, (mk a b).wellFormed = true ∧ encode (mk a b) = rWord op 0 a b) :
    RowAnswer ⟨op, .r, .unused, .w, .w⟩ c (decodeNWW mk c) :=
  .of_ite (by simp [illegalOperand_eq_false_iff, hldc]) fun ⟨himm, hd⟩ =>
    ⟨(hmk ..).1, (hmk ..).2.trans (rWord_eq_of_fields hop (congrArg Fin.val hd) rfl rfl himm)⟩

theorem decodeWWN_answer {mk : WReg → WReg → Instr}
    (hmk : ∀ d a, (mk d a).wellFormed = true ∧ encode (mk d a) = rWord op d a 0) :
    RowAnswer ⟨op, .r, .w, .w, .unused⟩ c (decodeWWN mk c) :=
  .of_ite (by simp [illegalOperand_eq_false_iff, hldc]) fun ⟨himm, hb⟩ =>
    ⟨(hmk ..).1, (hmk ..).2.trans (rWord_eq_of_fields hop rfl rfl (congrArg Fin.val hb) himm)⟩

theorem decodePNN_answer {mk : PReg → Instr}
    (hmk : ∀ d, (mk d).wellFormed = true ∧ encode (mk d) = rWord op d 0 0) :
    RowAnswer ⟨op, .r, .p, .unused, .unused⟩ c (decodePNN mk c) :=
  .of_dite (by simp [illegalOperand_eq_false_iff, hldc, and_assoc, and_comm, and_left_comm])
    fun ⟨⟨himm, ha, hb⟩, _⟩ =>
      ⟨(hmk _).1, (hmk _).2.trans (rWord_eq_of_fields hop rfl (congrArg Fin.val ha) (congrArg Fin.val hb) himm)⟩

theorem decodePPN_answer {mk : PReg → PReg → Instr}
    (hmk : ∀ d a, (mk d a).wellFormed = true ∧ encode (mk d a) = rWord op d a 0) :
    RowAnswer ⟨op, .r, .p, .p, .unused⟩ c (decodePPN mk c) :=
  .of_dite (by simp [illegalOperand_eq_false_iff, hldc, and_assoc, and_comm, and_left_comm])
    fun ⟨⟨himm, hb⟩, _⟩ =>
      ⟨(hmk ..).1, (hmk ..).2.trans (rWord_eq_of_fields hop rfl rfl (congrArg Fin.val hb) himm)⟩

/-- The form of kind p and of kind k, whose fields have the same limit (R83). -/
theorem decodePPP_answer {mk : Fin 8 → Fin 8 → Fin 8 → Instr} {kind : FieldKind}
    (hkind : kind.legal = FieldKind.p.legal)
    (hmk : ∀ d a b, (mk d a b).wellFormed = true ∧ encode (mk d a b) = rWord op d a b) :
    RowAnswer ⟨op, .r, kind, kind, kind⟩ c (decodePPP mk c) :=
  .of_dite (by simp [illegalOperand_eq_false_iff, hkind, hldc]) fun ⟨himm, _⟩ =>
    ⟨(hmk ..).1, (hmk ..).2.trans (rWord_eq_of_fields hop rfl rfl rfl himm)⟩

theorem decodePPW_answer {mk : PReg → PReg → WReg → Instr}
    (hmk : ∀ d a b, (mk d a b).wellFormed = true ∧ encode (mk d a b) = rWord op d a b) :
    RowAnswer ⟨op, .r, .p, .p, .w⟩ c (decodePPW mk c) :=
  .of_dite (by simp [illegalOperand_eq_false_iff, hldc]) fun ⟨himm, _⟩ =>
    ⟨(hmk ..).1, (hmk ..).2.trans (rWord_eq_of_fields hop rfl rfl rfl himm)⟩

theorem decodeKWN_answer {mk : Slot → WReg → Instr}
    (hmk : ∀ d a, (mk d a).wellFormed = true ∧ encode (mk d a) = rWord op d a 0) :
    RowAnswer ⟨op, .r, .k, .w, .unused⟩ c (decodeKWN mk c) :=
  .of_dite (by simp [illegalOperand_eq_false_iff, hldc, and_assoc, and_comm, and_left_comm])
    fun ⟨⟨himm, hb⟩, _⟩ =>
      ⟨(hmk ..).1, (hmk ..).2.trans (rWord_eq_of_fields hop rfl rfl (congrArg Fin.val hb) himm)⟩

theorem decodeWPN_answer {mk : WReg → PReg → Instr}
    (hmk : ∀ d a, (mk d a).wellFormed = true ∧ encode (mk d a) = rWord op d a 0) :
    RowAnswer ⟨op, .r, .w, .p, .unused⟩ c (decodeWPN mk c) :=
  .of_dite (by simp [illegalOperand_eq_false_iff, hldc, and_assoc, and_comm])
    fun ⟨⟨himm, hb⟩, _⟩ =>
      ⟨(hmk ..).1, (hmk ..).2.trans (rWord_eq_of_fields hop rfl rfl (congrArg Fin.val hb) himm)⟩

end Forms

/-- LDC's form, the one whose immediate has a limit (R87 item 5). -/
theorem decodeLdc_answer {c : Word} (hop : opField c = 0x10) :
    RowAnswer ⟨0x10, .i, .w, .unused, .unused⟩ c (decodeWNI .ldc c) :=
  .of_ite (by simp [illegalOperand_eq_false_iff, and_left_comm]) fun ⟨hb, ha, hidx⟩ =>
    ⟨hidx, iWord_eq_of_fields hop rfl (congrArg Fin.val ha) hb⟩

/-! ## What the decoder can answer (R85 to R88) -/

/-- The inversion lemma of `decode`: the form of the word's row of R85 answers, or no row has the word's OP (R86). The
cases stand in the order of the rows. -/
theorem decode_cases (c : Word) :
    (∃ row ∈ opcodeMap, row.op = opField c ∧ RowAnswer row c (decode c)) ∨
      ((∀ row ∈ opcodeMap, row.op ≠ opField c) ∧ decode c = .error .illegalOpcode) := by
  unfold decode
  split
  iterate 10
    next h => exact .inl ⟨_, by decide, h.symm, decodeWWW_answer h (by decide) fun _ _ _ => ⟨rfl, rfl⟩⟩
  iterate 2
    next h => exact .inl ⟨_, by decide, h.symm, decodeWWI_answer h (by decide) fun _ _ _ => ⟨rfl, rfl⟩⟩
  · next h => exact .inl ⟨_, by decide, h.symm, decodeNWW_answer h (by decide) fun _ _ => ⟨rfl, rfl⟩⟩
  · next h => exact .inl ⟨_, by decide, h.symm, decodeWWN_answer h (by decide) fun _ _ => ⟨rfl, rfl⟩⟩
  · next h => exact .inl ⟨_, by decide, h.symm, decodeWWW_answer h (by decide) fun _ _ _ => ⟨rfl, rfl⟩⟩
  · next h => exact .inl ⟨_, by decide, h.symm, decodeLdc_answer h⟩
  · next h => exact .inl ⟨_, by decide, h.symm, decodePNN_answer h (by decide) fun _ => ⟨rfl, rfl⟩⟩
  · next h => exact .inl ⟨_, by decide, h.symm, decodePPN_answer h (by decide) fun _ _ => ⟨rfl, rfl⟩⟩
  · next h => exact .inl ⟨_, by decide, h.symm, decodePPP_answer (kind := .p) h (by decide) rfl fun _ _ _ => ⟨rfl, rfl⟩⟩
  iterate 2
    next h => exact .inl ⟨_, by decide, h.symm, decodePPN_answer h (by decide) fun _ _ => ⟨rfl, rfl⟩⟩
  · next h => exact .inl ⟨_, by decide, h.symm, decodePPW_answer h (by decide) fun _ _ _ => ⟨rfl, rfl⟩⟩
  · next h => exact .inl ⟨_, by decide, h.symm, decodeKWN_answer h (by decide) fun _ _ => ⟨rfl, rfl⟩⟩
  · next h => exact .inl ⟨_, by decide, h.symm, decodePPP_answer (kind := .k) h (by decide) rfl fun _ _ _ => ⟨rfl, rfl⟩⟩
  · next h => exact .inl ⟨_, by decide, h.symm, decodeWPN_answer h (by decide) fun _ _ => ⟨rfl, rfl⟩⟩
  · next h => exact .inl ⟨_, by decide, h.symm, decodeKWN_answer h (by decide) fun _ _ => ⟨rfl, rfl⟩⟩
  · refine .inr ⟨?_, rfl⟩
    simp_all [opcodeMap, eq_comm (b := opField c)]

/-- No two rows of R85 have the same OP. -/
theorem opcodeMap_op_injective : ∀ row ∈ opcodeMap, ∀ row' ∈ opcodeMap, row.op = row'.op → row = row' := by
  decide +kernel

theorem decode_answer_of_row {c : Word} {row : OpcodeRow} (hrow : row ∈ opcodeMap) (hop : row.op = opField c) :
    RowAnswer row c (decode c) := by
  rcases decode_cases c with ⟨row', hrow', hop', h⟩ | ⟨hnone, -⟩
  · rwa [opcodeMap_op_injective row hrow row' hrow' (hop.trans hop'.symm)]
  · exact absurd hop (hnone row hrow)

/-- A word decodes to the well-formed command that it is the encoding of, and to no other. -/
theorem decode_eq_ok_iff {c : Word} {i : Instr} : decode c = .ok i ↔ i.wellFormed = true ∧ encode i = c := by
  constructor
  · intro hi
    rcases decode_cases c with ⟨row, -, -, h⟩ | ⟨-, h⟩
    · rw [hi] at h
      cases h with
      | ok _ hwf henc => exact ⟨hwf, henc⟩
    · cases hi.symm.trans h
  · rintro ⟨hwf, rfl⟩
    exact decode_encode hwf

/-- R86: the OP is in no row. -/
theorem decode_eq_illegalOpcode_iff {c : Word} :
    decode c = .error .illegalOpcode ↔ ∀ row ∈ opcodeMap, row.op ≠ opField c := by
  rcases decode_cases c with ⟨row, hrow, hop, h⟩ | ⟨hnone, he⟩
  · refine ⟨fun he => ?_, fun hnone => absurd hop (hnone row hrow)⟩
    rw [he] at h
    cases h
  · exact ⟨fun _ => hnone, fun _ => he⟩

/-- R87: a condition of the word's row holds. -/
theorem decode_eq_illegalOperand_iff {c : Word} {row : OpcodeRow} (hrow : row ∈ opcodeMap) (hop : row.op = opField c) :
    decode c = .error .illegalOperand ↔ row.illegalOperand c = true := by
  generalize hr : decode c = r
  have hc := decode_answer_of_row hrow hop
  rw [hr] at hc
  cases hc with
  | ok hlegal => simp [hlegal]
  | illegal h => simp [h]

/-- The gaps between the rows of R85 (R86). -/
theorem not_in_opcodeMap_iff {op : Nat} :
    (∀ row ∈ opcodeMap, row.op ≠ op) ↔
      op = 0 ∨ (0x12 ≤ op ∧ op ≤ 0x1F) ∨ (0x24 ≤ op ∧ op ≤ 0x2F) ∨ (0x31 ≤ op ∧ op ≤ 0x3F) ∨ 0x44 ≤ op := by
  simp [opcodeMap]
  omega

/-- Settles O2: `decode_eq_ok_iff`, one way. -/
theorem decodedWordIsItsEncoding : Obligations.DecodedWordIsItsEncoding := by
  unfold Obligations.DecodedWordIsItsEncoding
  exact fun _ _ => decode_eq_ok_iff.1

/-- Settles O5: each word is the encoding of its command. -/
theorem sampleWordsDecode : Obligations.SampleWordsDecode := by
  unfold Obligations.SampleWordsDecode
  simp only [decode_eq_ok_iff]
  decide

end Sys2Proof

namespace Sys2Proof.Machine

/-! ## The core's turn on a decoded word (R86, R87, R89) -/

section Step

variable {s u : State}

theorem step_of_nil (h : s.schedule = []) : step s = coreTurn s := by rw [step, nextEvent, h]

theorem step_of_cons {e : Event} {es : List Event} (h : s.schedule = e :: es) :
    step s = runEvent e (s.withSchedule es) := by rw [step, nextEvent, h]

theorem coreTurn_of_idle (hb : s.status.busy = false) : coreTurn s = .next s := by simp [coreTurn, hb]

theorem coreTurn_of_decode_ok {i : Instr} (hb : s.status.busy = true) (hi : decode s.cmd = .ok i) :
    coreTurn s = exec i s := by
  simp only [coreTurn, hb, if_true, runCommand, hi]

theorem coreTurn_of_decode_error {e : DecodeError} (hb : s.status.busy = true) (he : decode s.cmd = .error e) :
    coreTurn s = .next (s.fail (decodeFailure e)) := by
  simp only [coreTurn, hb, if_true, runCommand, he]

/-- A running word that fails decode completes with its error and writes nothing, at the core's turn. -/
theorem step_of_decode_error {e : DecodeError} (hb : s.status.busy = true) (he : decode s.cmd = .error e)
    (hturn : s.schedule = [] ∧ u = s ∨ ∃ es, s.schedule = .coreTurn :: es ∧ u = s.withSchedule es) :
    ∃ t, step s = .next t ∧ CompletedErr u t (decodeFailure e) ∧ t.flags = u.flags ∧ UnchangedExcept u t none none := by
  refine ⟨u.fail (decodeFailure e), ?_, u.fail_completedErr _, rfl, u.fail_unchangedExcept _⟩
  rcases hturn with ⟨hs, rfl⟩ | ⟨es, hs, rfl⟩
  · rw [step_of_nil hs, coreTurn_of_decode_error hb he]
  · rw [step_of_cons hs]
    exact coreTurn_of_decode_error hb he

end Step

/-- Settles O3: the OP values of R86 are those of no row of R85. -/
theorem illegalOpcodeCompletesWithCode1 : Obligations.IllegalOpcodeCompletesWithCode1 := by
  unfold Obligations.IllegalOpcodeCompletesWithCode1
  intro c op
  constructor
  · rw [decode_eq_illegalOpcode_iff, opField_eq, not_in_opcodeMap_iff]
  · rintro s u hb rfl he hturn
    obtain ⟨t, hstep, herr, hflags, hsame⟩ := step_of_decode_error hb he hturn
    exact ⟨t, hstep, herr, rfl, hflags, hsame⟩

/-- Settles O4: the word's row of R85 decides. -/
theorem illegalOperandCompletesWithCode2 : Obligations.IllegalOperandCompletesWithCode2 := by
  unfold Obligations.IllegalOperandCompletesWithCode2
  intro c row hrow hop
  constructor
  · exact decode_eq_illegalOperand_iff hrow (hop.trans (opField_eq c).symm)
  · rintro s u hb rfl he hturn
    obtain ⟨t, hstep, herr, hflags, hsame⟩ := step_of_decode_error hb he hturn
    exact ⟨t, hstep, herr, rfl, hflags, hsame⟩

/-- Settles O6: the head of the schedule picks the event, and the core's turn is `exec` when a word runs. -/
theorem stepRunsDecodedCommand : Obligations.StepRunsDecodedCommand := by
  unfold Obligations.StepRunsDecodedCommand
  intro s
  refine ⟨fun i hb hi _ => ⟨fun hs => ?_, fun es hs => ?_⟩, fun a width es hs => step_of_cons hs,
    fun a width v es hs => step_of_cons hs, fun hb => ⟨fun hs => ?_, fun es hs => ?_⟩⟩
  · rw [step_of_nil hs, coreTurn_of_decode_ok hb hi]
  · rw [step_of_cons hs]
    exact coreTurn_of_decode_ok hb hi
  · rw [step_of_nil hs, coreTurn_of_idle hb]
  · rw [step_of_cons hs]
    exact coreTurn_of_idle hb

end Sys2Proof.Machine
end

section
/-! Proofs about the integer commands (40_integer.md): each result as a number, the two errors of `inverse_mod`, and
the words of a row whose fields are illegal. The commands read marked sources, so each proof first puts `State.srcW`
for the contents and then cites the value. -/

namespace Sys2Proof.Machine

variable {s : State}

/-! ## Illegal fields (30_encoding.md R87) -/

/-- A word whose D, A and B fields are not all legal for its row of R85 is no command. -/
theorem operandsIllegal_of_row {row : OpcodeRow} (hrow : row ∈ opcodeMap) {bad : Nat → Nat → Nat → Prop}
    (hbad : ∀ d a b, bad d a b → ¬(row.d.legal d = true ∧ row.a.legal a = true ∧ row.b.legal b = true)) :
    OperandsIllegal row.op bad := by
  intro c hop hc
  rw [decode_eq_illegalOperand_iff hrow (hop.symm.trans (opField_eq c).symm)]
  by_contra hlegal
  obtain ⟨-, -, hd, ha, hb, -⟩ := (illegalOperand_eq_false_iff row c).1 (Bool.eq_false_of_not_eq_true hlegal)
  rw [dField_val] at hd
  rw [aField_val] at ha
  rw [bField_val] at hb
  exact hbad _ _ _ hc ⟨hd, ha, hb⟩

/-! ## Results as numbers -/

theorem mul_eq_ofNat (v u : Value) : v * u = BitVec.ofNat 512 (v.toNat * u.toNat) := by
  apply BitVec.eq_of_toNat_eq
  rw [BitVec.toNat_mul, BitVec.toNat_ofNat]

theorem sub_eq_ofNat (v u : Value) : v - u = BitVec.ofNat 512 (v.toNat + (2 ^ 512 - u.toNat)) := by
  rw [BitVec.sub_def, Nat.add_comm]

/-- A number that a value has is that value's. -/
theorem ofNat_eq_of_toNat {v : Value} {n : Nat} (h : v.toNat = n) : v = BitVec.ofNat 512 n := by
  rw [← h, BitVec.ofNat_toNat, BitVec.setWidth_eq]

/-- A value is 0 when its number is. -/
theorem Value.eq_zero_of_toNat {v : Value} (h : v.toNat = 0) : v = 0 :=
  BitVec.eq_of_toNat_eq (h.trans BitVec.toNat_zero.symm)

/-- `shl` from 512 on (40_integer.md R109). -/
theorem shl_of_ge (v : Value) {n : Nat} (h : 512 ≤ n) : shl v n = 0 := if_pos h

theorem shr_of_ge (v : Value) {n : Nat} (h : 512 ≤ n) : shr v n = 0 := if_pos h

/-- `shl` below 512 (R109). -/
theorem shl_of_lt (v : Value) {n : Nat} (h : n < 512) : shl v n = BitVec.ofNat 512 (v.toNat * 2 ^ n) := by
  rw [shl, if_neg (Nat.not_le.2 h)]
  apply BitVec.eq_of_toNat_eq
  rw [BitVec.toNat_shiftLeft, BitVec.toNat_ofNat, Nat.shiftLeft_eq]

theorem shr_of_lt (v : Value) {n : Nat} (h : n < 512) : shr v n = BitVec.ofNat 512 (v.toNat / 2 ^ n) := by
  rw [shr, if_neg (Nat.not_le.2 h)]
  exact ofNat_eq_of_toNat (by rw [BitVec.toNat_ushiftRight, Nat.shiftRight_eq_div_pow])

/-- An immediate is zero-extended (30_encoding.md R84). -/
theorem immValue_toNat (imm : Imm12) : (immValue imm).toNat = imm.toNat :=
  BitVec.toNat_setWidth_of_le (by decide)

/-- FLAGS after a comparison as the host reads it (40_integer.md R116). -/
theorem compareFlags_word (v u : Value) :
    (compareFlags v u).word = if v.toNat = u.toNat then 1#32 else if v.toNat < u.toNat then 2#32 else 4#32 := by
  have heq : (v == u) = decide (v.toNat = u.toNat) := by simp [beq_eq_decide, BitVec.toNat_inj]
  rw [compareFlags, heq, BitVec.ult_eq_decide, BitVec.ult_eq_decide]
  rcases Nat.lt_trichotomy v.toNat u.toNat with h | h | h
  · rw [if_neg h.ne, if_pos h, decide_eq_false h.ne, decide_eq_true h, decide_eq_false h.not_gt]
    decide
  · rw [if_pos h, decide_eq_true h, decide_eq_false h.not_lt, decide_eq_false h.not_gt]
    decide
  · rw [if_neg h.ne', if_neg h.not_gt, decide_eq_false h.ne', decide_eq_false h.not_gt, decide_eq_true h]
    decide

/-! ## The wrapping and the bitwise commands -/

/-- Settles O32: `BitVec`'s sum, difference and product are those of the numbers modulo 2^512. -/
theorem addSubMulWrap : Obligations.AddSubMulWrap := by
  unfold Obligations.AddSubMulWrap
  intro s d a b ha hb
  rw [← s.srcW_of_marked ha, ← s.srcW_of_marked hb, ← BitVec.add_def, ← sub_eq_ofNat, ← mul_eq_ofNat]
  exact ⟨⟨rfl, .of_exec rfl⟩, ⟨rfl, .of_exec rfl⟩, rfl, .of_exec rfl⟩

/-- Settles O34: the written values are `BitVec`'s AND, OR and XOR. -/
theorem bitwiseCommands : Obligations.BitwiseCommands := by
  unfold Obligations.BitwiseCommands
  intro s d a b ha hb
  rw [← s.srcW_of_marked ha, ← s.srcW_of_marked hb]
  exact ⟨rfl, rfl, rfl, ⟨_, .of_exec rfl, fun _ _ => BitVec.getLsbD_and⟩,
    ⟨_, .of_exec rfl, fun _ _ => BitVec.getLsbD_or⟩, ⟨_, .of_exec rfl, fun _ _ => BitVec.getLsbD_xor⟩⟩

/-! ## DIV and REM (R104, R105) -/

theorem exec_div_of_ne_zero (d a : WReg) {b : WReg} (h : s.srcW b ≠ 0) :
    exec (.div d a b) s = .next (s.finish (.ok (Writes.toW d (s.srcW a / s.srcW b)))) := by
  rw [exec, execDiv, if_neg h]

theorem exec_rem_of_ne_zero (d a : WReg) {b : WReg} (h : s.srcW b ≠ 0) :
    exec (.rem d a b) s = .next (s.finish (.ok (Writes.toW d (s.srcW a % s.srcW b)))) := by
  rw [exec, execRem, if_neg h]

theorem exec_div_of_zero (d a : WReg) {b : WReg} (h : s.srcW b = 0) :
    exec (.div d a b) s = .next (s.finish (.error .divByZero)) := by
  rw [exec, execDiv, if_pos h]

theorem exec_rem_of_zero (d a : WReg) {b : WReg} (h : s.srcW b = 0) :
    exec (.rem d a b) s = .next (s.finish (.error .divByZero)) := by
  rw [exec, execRem, if_pos h]

/-- Settles O33: the test on the divisor picks the write or the error. -/
theorem divRemUnsigned : Obligations.DivRemUnsigned := by
  unfold Obligations.DivRemUnsigned
  intro s d a b ha hb
  rw [← s.srcW_of_marked ha, ← s.srcW_of_marked hb, ← ofNat_eq_of_toNat BitVec.toNat_udiv,
    ← ofNat_eq_of_toNat BitVec.toNat_umod]
  refine ⟨rfl, rfl, fun hne => ?_, fun hzero => ?_⟩
  · have hne := Value.toNat_ne_zero.1 hne
    exact ⟨.of_exec (exec_div_of_ne_zero d a hne), .of_exec (exec_rem_of_ne_zero d a hne)⟩
  · have hzero := Value.eq_zero_of_toNat hzero
    exact ⟨.of_exec (exec_div_of_zero d a hzero), .of_exec (exec_rem_of_zero d a hzero)⟩

/-! ## Shifts (R109 to R113) -/

/-- Settles O35: `shl` and `shr` by the number in W[b], on both sides of 512. -/
theorem shiftsByRegister : Obligations.ShiftsByRegister := by
  unfold Obligations.ShiftsByRegister
  intro s d a b ha hb
  rw [← s.srcW_of_marked ha, ← s.srcW_of_marked hb]
  refine ⟨rfl, rfl, fun hge => ?_, fun hlt => ?_⟩
  · exact ⟨shl_of_ge (s.srcW a) hge ▸ .of_exec rfl, shr_of_ge (s.srcW a) hge ▸ .of_exec rfl⟩
  · exact ⟨shl_of_lt (s.srcW a) hlt ▸ .of_exec rfl, shr_of_lt (s.srcW a) hlt ▸ .of_exec rfl⟩

/-- Settles O36: `shl` and `shr` by the immediate, on both sides of 512. -/
theorem shiftsByImmediate : Obligations.ShiftsByImmediate := by
  unfold Obligations.ShiftsByImmediate
  intro s d a imm ha
  rw [← s.srcW_of_marked ha, ← immValue_toNat]
  refine ⟨rfl, rfl, fun hge => ?_, fun hlt => ?_⟩
  · exact ⟨shl_of_ge (s.srcW a) hge ▸ .of_exec rfl, shr_of_ge (s.srcW a) hge ▸ .of_exec rfl⟩
  · exact ⟨shl_of_lt (s.srcW a) hlt ▸ .of_exec rfl, shr_of_lt (s.srcW a) hlt ▸ .of_exec rfl⟩

/-! ## CMP and CVT64 (R116, R117) -/

/-- Settles O37: the comparison's word, and D is an unused field. -/
theorem cmpWritesFlags : Obligations.CmpWritesFlags := by
  unfold Obligations.CmpWritesFlags
  intro s a b ha hb
  rw [← s.srcW_of_marked ha, ← s.srcW_of_marked hb]
  refine ⟨rfl, operandsIllegal_of_row (row := ⟨0x0D, .r, .unused, .w, .w⟩) (by decide) ?_, _, .of_exec rfl,
    compareFlags_word _ _⟩
  simp +contextual

/-- The test of CVT64 in numbers. -/
theorem twoPow_64_le_iff (v : Value) : BitVec.twoPow 512 64 ≤ v ↔ 2 ^ 64 ≤ v.toNat := by
  rw [BitVec.le_def, BitVec.toNat_twoPow, Nat.mod_eq_of_lt (Nat.pow_lt_pow_right one_lt_two (by decide))]

theorem exec_cvt64_of_lt (d : WReg) {a : WReg} (h : (s.srcW a).toNat < 2 ^ 64) :
    exec (.cvt64 d a) s = .next (s.finish (.ok (Writes.toW d (s.srcW a)))) := by
  rw [exec, execCvt64, if_neg (mt (twoPow_64_le_iff _).1 h.not_ge)]

theorem exec_cvt64_of_ge (d : WReg) {a : WReg} (h : 2 ^ 64 ≤ (s.srcW a).toNat) :
    exec (.cvt64 d a) s = .next (s.finish (.error .conversionOverflow)) := by
  rw [exec, execCvt64, if_pos ((twoPow_64_le_iff _).2 h)]

/-- Settles O38: the test on the value picks the write or the error, and B is an unused field. -/
theorem cvt64ChecksRange : Obligations.Cvt64ChecksRange := by
  unfold Obligations.Cvt64ChecksRange
  intro s d a ha
  rw [← s.srcW_of_marked ha]
  refine ⟨rfl, operandsIllegal_of_row (row := ⟨0x0E, .r, .w, .w, .unused⟩) (by decide) ?_,
    fun h => .of_exec (exec_cvt64_of_lt d h), fun h => .of_exec (exec_cvt64_of_ge d h)⟩
  simp +contextual

/-! ## INVMOD (R114, R115) -/

theorem inverseMod_of_modulus_zero (a : Value) : inverseMod a 0 = .error .divByZero := if_pos rfl

theorem inverseMod_of_mod_zero {a m : Value} (hm : m.toNat ≠ 0) (ha : a.toNat % m.toNat = 0) :
    inverseMod a m = .error .notInvertible := by
  have ham : a % m = 0 := Value.eq_zero_of_toNat (by rwa [BitVec.toNat_umod])
  rw [inverseMod, if_neg (Value.toNat_ne_zero.1 hm), if_pos ham]

theorem exec_invmod_of_ok (d : WReg) {a b : WReg} {t : Value} (h : inverseMod (s.srcW a) (s.srcW b) = .ok t) :
    exec (.invmod d a b) s = .next (s.finish (.ok (Writes.toW d t))) := by
  simp only [exec, execInvmod, h]

theorem exec_invmod_of_error (d : WReg) {a b : WReg} {e : CmdError}
    (h : inverseMod (s.srcW a) (s.srcW b) = .error e) : exec (.invmod d a b) s = .next (s.finish (.error e)) := by
  simp only [exec, execInvmod, h]

/-- The bounded loop is the unbounded one: it stops at the first pass that makes `new_r` zero
(70_reset_and_hazards.md R302). -/
theorem euclidLoop_eq_first_zero (m : Value) (e : Euclid) :
    ∃ n, (∀ k < n, ((euclidPass m)^[k] e).newR ≠ 0) ∧ ((euclidPass m)^[n] e).newR = 0 ∧
      euclidLoop m euclidPasses e = (euclidPass m)^[n] e := by
  obtain ⟨n, -, hloop, hfirst, -⟩ := euclidLoop_iterate m euclidPasses e
  exact ⟨n, hfirst, hloop ▸ euclid_ends m e, hloop⟩

/-- Settles O39: the errors in the order of R115, and the loop's first zero of `new_r`. -/
theorem invmodRunsTheLoop : Obligations.InvmodRunsTheLoop := by
  unfold Obligations.InvmodRunsTheLoop
  intro s d a b ha hb
  rw [← s.srcW_of_marked ha, ← s.srcW_of_marked hb]
  refine ⟨rfl, fun hm => ?_, fun hm hzero => ?_, fun hm hne => ?_⟩
  · refine .of_exec (exec_invmod_of_error d ?_)
    rw [Value.eq_zero_of_toNat hm, inverseMod_of_modulus_zero]
  · exact .of_exec (exec_invmod_of_error d (inverseMod_of_mod_zero hm hzero))
  · obtain ⟨n, hfirst, hzero, hloop⟩ := euclidLoop_eq_first_zero (s.srcW b) (euclidStart (s.srcW a) (s.srcW b))
    exact ⟨n, hfirst, hzero, .of_exec (exec_invmod_of_ok d (hloop ▸ inverseMod_ok hm hne))⟩

/-- `inverse_mod` reduces its first operand before anything else (R114). -/
theorem inverseMod_mod (a m : Value) : inverseMod (a % m) m = inverseMod a m := by
  have hmod : a % m % m = a % m := BitVec.eq_of_toNat_eq (by simp only [BitVec.toNat_umod, Nat.mod_mod])
  rw [inverseMod, inverseMod, euclidStart, euclidStart, hmod]

/-- The greatest common divisor with a modulus that does not divide is below it. -/
theorem gcd_lt_of_mod_ne_zero {a m : Nat} (hm : 0 < m) (h : a % m ≠ 0) : Nat.gcd a m < m :=
  (Nat.gcd_le_right a hm).lt_of_ne fun heq => h (Nat.mod_eq_zero_of_dvd (Nat.gcd_eq_right_iff_dvd.1 heq))

/-- Settles O40: the loop's congruence with the greatest common divisor, whose remainder it is. -/
theorem inverseModIsExact : Obligations.InverseModIsExact := by
  unfold Obligations.InverseModIsExact
  intro a m hm ha
  have hok := inverseMod_ok (by omega) ha
  have hstart := euclidStart_inv a m hm
  refine ⟨(inverseMod_mod a m).symm, _, hok, euclidLoop_lt (by omega) _ _ hstart.t_lt hstart.newT_lt, fun hm' => ?_⟩
  obtain ⟨t, ht, -, hgcd⟩ := inverseMod_modEq_gcd hm hm' ha
  cases hok.symm.trans ht
  exact Eq.trans hgcd (Nat.mod_eq_of_lt (gcd_lt_of_mod_ne_zero (by omega) ha))

end Sys2Proof.Machine
end

section
/-! Proofs about the constant loads (41_constants.md): the ROM as numbers, what LDC writes for an index the ROM has, and
the words of the two rows whose fields are illegal. -/

namespace Sys2Proof.Machine

/-! ## The ROM as numbers (R141, R142) -/

theorem P_eq_ofNat : P = BitVec.ofNat 512 (2 ^ 224 - 2 ^ 96 + 1) := ofNat_eq_of_toNat P_toNat

theorem A_eq_ofNat : A = BitVec.ofNat 512 (2 ^ 224 - 2 ^ 96 - 2) := ofNat_eq_of_toNat (by decide +kernel)

/-! ## LDC (R145) -/

/-- LDC of an index below 5 writes that ROM entry, whatever the registers hold. -/
theorem ldc_writesW {s : State} (d : WReg) {idx : Imm12} (h : idx.toNat < 5) :
    WritesW (.ldc d idx) s d (rom[idx.toNat]'h) :=
  .of_exec (by rw [exec, execLdc, dif_pos h])

/-- A word with LDC's OP and an immediate of 5 or more is no command (30_encoding.md R87 item 5). -/
theorem decode_ldc_of_index_ge {c : Word} (hop : c.toNat % 256 = 0x10) (hidx : 5 ≤ c.toNat / 2 ^ 20) :
    decode c = .error .illegalOperand := by
  have hrow : (⟨0x10, .i, .w, .unused, .unused⟩ : OpcodeRow) ∈ opcodeMap := by decide
  rw [decode_eq_illegalOperand_iff hrow (hop.symm.trans (opField_eq c).symm)]
  by_contra hlegal
  obtain ⟨-, -, -, -, -, hrom⟩ := (illegalOperand_eq_false_iff _ c).1 (Bool.eq_false_of_not_eq_true hlegal)
  have himm : c.toNat / 2 ^ 20 % 2 ^ 12 < 5 := immField_toNat c ▸ of_decide_eq_true (hrom rfl)
  have hc : c.toNat < 2 ^ 32 := c.isLt
  omega

/-- LDC's A field is unused. -/
theorem operandsIllegal_ldc : OperandsIllegal 0x10 fun _ a _ => a ≠ 0 :=
  operandsIllegal_of_row (row := ⟨0x10, .i, .w, .unused, .unused⟩) (by decide) fun _ _ _ ha ⟨_, hlegal, _⟩ =>
    ha ((FieldKind.legal_unused _).1 hlegal)

/-- Settles O41: `ldc_writesW` at each of the five indices. -/
theorem ldcLoadsTheRom : Obligations.LdcLoadsTheRom := by
  unfold Obligations.LdcLoadsTheRom
  intro s d
  rw [← P_eq_ofNat, ← A_eq_ofNat]
  refine ⟨ldc_writesW d (idx := 0) (by decide), ldc_writesW d (idx := 1) (by decide),
    ldc_writesW d (idx := 2) (by decide), ldc_writesW d (idx := 3) (by decide), ldc_writesW d (idx := 4) (by decide),
    fun _ => ⟨rfl, rfl⟩, ?_⟩
  rintro c hop (hidx | ha)
  · exact decode_ldc_of_index_ge hop hidx
  · exact operandsIllegal_ldc c hop ha

/-! ## PLDG (R146) -/

/-- PLDG has a point register as D, and its A and B fields are unused. -/
theorem operandsIllegal_pldg : OperandsIllegal 0x11 fun d a b => 8 ≤ d ∨ a ≠ 0 ∨ b ≠ 0 := by
  refine operandsIllegal_of_row (row := ⟨0x11, .r, .p, .unused, .unused⟩) (by decide) fun d a b hbad ⟨hd, ha, hb⟩ => ?_
  rw [FieldKind.legal_p] at hd
  rw [FieldKind.legal_unused] at ha hb
  omega

/-- Settles O42: PLDG always completes, and the base point is the ROM's Gx and Gy with Z = 1. -/
theorem pldgLoadsTheBasePoint : Obligations.PldgLoadsTheBasePoint := by
  unfold Obligations.PldgLoadsTheBasePoint
  intro s d
  have hwrite : WritesPT (.pldg d) s d Point.base := .of_exec rfl
  exact ⟨hwrite, rfl, rfl, operandsIllegal_pldg⟩

end Sys2Proof.Machine
end

section
/-! Proofs about the point commands (42_point.md): values as elements of the field of P, so that each formula is one
computation with integers, the cases of the addition, and the range of every result. -/

namespace Sys2Proof.Machine

/-! ## Values as elements of the field (00_scope.md R12) -/

/-- The value is below P and congruent to the integer modulo P. -/
structure Represents (v : Value) (n : Int) : Prop where
  lt : v.toNat < fieldPrime
  modEq : (v.toNat : Int) ≡ n [ZMOD fieldPrime]

namespace Represents

variable {x y : Value} {a b : Int}

theorem self (h : x.toNat < fieldPrime) : Represents x x.toNat := ⟨h, rfl⟩

theorem fadd (hx : Represents x a) (hy : Represents y b) : Represents (fadd x y) (a + b) :=
  ⟨fadd_lt x y, (fadd_modEq hx.lt hy.lt).trans (hx.modEq.add hy.modEq)⟩

theorem fsub (hx : Represents x a) (hy : Represents y b) : Represents (fsub x y) (a - b) :=
  ⟨fsub_lt x y, (fsub_modEq hx.lt hy.lt).trans (hx.modEq.sub hy.modEq)⟩

theorem fmul (hx : Represents x a) (hy : Represents y b) : Represents (fmul x y) (a * b) :=
  ⟨fmul_lt x y, (fmul_modEq hx.lt hy.lt).trans (hx.modEq.mul hy.modEq)⟩

theorem fsq (hx : Represents x a) : Represents (fsq x) (a ^ 2) :=
  ⟨fsq_lt x, (fsq_modEq hx.lt).trans (hx.modEq.pow 2)⟩

theorem fsmall {k : Value} {c : Int} (hk : (k.toNat : Int) = c ∧ c ≤ 8) (hx : Represents x a) :
    Represents (fsmall k x) (c * a) := by
  obtain ⟨rfl, hk⟩ := hk
  exact ⟨fsmall_lt k x, (fsmall_modEq (Int.ofNat_le.1 hk) hx.lt).trans (hx.modEq.mul_left _)⟩

/-- Equality of represented values is congruence (42_point.md R153). -/
theorem eq_iff (hx : Represents x a) (hy : Represents y b) : x = y ↔ a ≡ b [ZMOD fieldPrime] := by
  rw [eq_iff_modEq hx.lt hy.lt]
  exact ⟨fun h => hx.modEq.symm.trans (h.trans hy.modEq), fun h => hx.modEq.trans (h.trans hy.modEq.symm)⟩

end Represents

/-- The curve coefficient is P - 3 (41_constants.md R142). -/
theorem A_represents : Represents A (fieldPrime - 3) := by
  have h : A.toNat = fieldPrime - 3 := by decide +kernel
  have hle : 3 ≤ fieldPrime := by decide +kernel
  refine ⟨by omega, ?_⟩
  rw [h, Nat.cast_sub hle]
  rfl

theorem isId_iff (p : Point) : p.isId = true ↔ p.x = 0 ∧ p.y = 0 := by
  rw [Point.isId, Bool.and_eq_true, beq_iff_eq, beq_iff_eq]

/-! ## Doubling (42_point.md R155, R156) -/

theorem pdbl_of_not_isId {p : Point} (h : ¬ p.isId = true) : pdbl p = pdblFormula p := if_neg h

/-- The formulas of R156 over the integers. -/
theorem pdblFormula_represents {p : Point} {X Y Z S M : Int} (hx : Represents p.x X) (hy : Represents p.y Y)
    (hz : Represents p.z Z) (hS : S = 2 * ((X + Y ^ 2) ^ 2 - X ^ 2 - Y ^ 4))
    (hM : M = 3 * X ^ 2 + (fieldPrime - 3) * Z ^ 4) :
    Represents (pdblFormula p).x (M ^ 2 - 2 * S) ∧
      Represents (pdblFormula p).y (M * (S - (M ^ 2 - 2 * S)) - 8 * Y ^ 4) ∧
      Represents (pdblFormula p).z ((Y + Z) ^ 2 - Y ^ 2 - Z ^ 2) := by
  have hyyyy : Represents (fsq (fsq p.y)) (Y ^ 4) := pow_mul Y 2 2 ▸ hy.fsq.fsq
  have hzzzz : Represents (fsq (fsq p.z)) (Z ^ 4) := pow_mul Z 2 2 ▸ hz.fsq.fsq
  have hs := (((hx.fadd hy.fsq).fsq.fsub hx.fsq).fsub hyyyy).fsmall (k := 2) (c := 2) (by decide +kernel)
  have hm := (hx.fsq.fsmall (k := 3) (c := 3) (by decide +kernel)).fadd (A_represents.fmul hzzzz)
  have ht := hm.fsq.fsub (hs.fsmall (k := 2) (c := 2) (by decide +kernel))
  subst hS hM
  exact ⟨ht, (hm.fmul (hs.fsub ht)).fsub (hyyyy.fsmall (k := 8) (c := 8) (by decide +kernel)),
    ((hy.fadd hz).fsq.fsub hy.fsq).fsub hz.fsq⟩

/-- Settles O46: the formulas step by step, as integers. -/
theorem pdblFollowsItsFormulas : Obligations.PdblFollowsItsFormulas := by
  unfold Obligations.PdblFollowsItsFormulas
  intro p hp m X1 Y1 Z1 S M
  rw [← isId_iff]
  refine ⟨pdbl_of_isId, fun hid => ?_⟩
  obtain ⟨hx, hy, hz⟩ := pdblFormula_represents (.self hp.1) (.self hp.2.1) (.self hp.2.2) (S := S) (M := M) rfl rfl
  rw [pdbl_of_not_isId hid]
  exact ⟨⟨hx.lt, hy.lt, hz.lt⟩, hx.modEq, hy.modEq, hz.modEq⟩

/-! ## Addition (R153, R154) -/

/-- U1 of R154, and U2 with the points exchanged. -/
def paddU (p q : Point) : Value := fmul p.x (fsq q.z)

/-- S1 of R154, and S2 with the points exchanged. -/
def paddS (p q : Point) : Value := fmul (fmul p.y q.z) (fsq q.z)

section Cases

variable {p q : Point}

theorem padd_of_isId_left (hp : p.isId = true) : padd p q = q := if_pos hp

theorem padd_of_isId_right (hp : ¬ p.isId = true) (hq : q.isId = true) : padd p q = p := by
  rw [padd, if_neg hp, if_pos hq]

theorem padd_of_same (hp : ¬ p.isId = true) (hq : ¬ q.isId = true) (hu : paddU p q = paddU q p)
    (hs : paddS p q = paddS q p) : padd p q = pdbl p := by
  rw [padd, if_neg hp, if_neg hq]
  exact (if_pos hu).trans (if_pos hs)

theorem padd_of_opposite (hp : ¬ p.isId = true) (hq : ¬ q.isId = true) (hu : paddU p q = paddU q p)
    (hs : paddS p q ≠ paddS q p) : padd p q = Point.identity := by
  rw [padd, if_neg hp, if_neg hq]
  exact (if_pos hu).trans (if_neg hs)

theorem padd_of_distinct (hp : ¬ p.isId = true) (hq : ¬ q.isId = true) (hu : paddU p q ≠ paddU q p) :
    padd p q = paddFormula p.z q.z (paddU p q) (paddU q p) (paddS p q) (paddS q p) := by
  rw [padd, if_neg hp, if_neg hq]
  exact if_neg hu

theorem paddU_represents (hp : p.InField) (hq : q.InField) :
    Represents (paddU p q) (p.x.toNat * (q.z.toNat : Int) ^ 2) :=
  .fmul (.self hp.1) (.fsq (.self hq.2.2))

theorem paddS_represents (hp : p.InField) (hq : q.InField) :
    Represents (paddS p q) (p.y.toNat * (q.z.toNat : Int) ^ 3) := by
  have hz : Represents q.z q.z.toNat := .self hq.2.2
  have h := ((Represents.self hp.2.1).fmul hz).fmul hz.fsq
  rwa [mul_assoc, ← pow_succ'] at h

end Cases

/-- The formulas of R154 over the integers, from the terms of the equality test. -/
theorem paddFormula_represents {z1 z2 u1 u2 s1 s2 : Value} {Z1 Z2 U1 U2 S1 S2 H R V : Int} (hz1 : Represents z1 Z1)
    (hz2 : Represents z2 Z2) (hu1 : Represents u1 U1) (hu2 : Represents u2 U2) (hs1 : Represents s1 S1)
    (hs2 : Represents s2 S2) (hH : H = U2 - U1) (hR : R = S2 - S1) (hV : V = U1 * H ^ 2) :
    Represents (paddFormula z1 z2 u1 u2 s1 s2).x (R ^ 2 - H ^ 3 - 2 * V) ∧
      Represents (paddFormula z1 z2 u1 u2 s1 s2).y (R * (V - (R ^ 2 - H ^ 3 - 2 * V)) - S1 * H ^ 3) ∧
      Represents (paddFormula z1 z2 u1 u2 s1 s2).z (Z1 * Z2 * H) := by
  have hh : Represents (fsub u2 u1) H := hH ▸ hu2.fsub hu1
  have hr : Represents (fsub s2 s1) R := hR ▸ hs2.fsub hs1
  have hv : Represents (fmul u1 (fsq (fsub u2 u1))) V := hV ▸ hu1.fmul hh.fsq
  have hhhh : Represents (fmul (fsub u2 u1) (fsq (fsub u2 u1))) (H ^ 3) := pow_succ' H 2 ▸ hh.fmul hh.fsq
  have hx := (hr.fsq.fsub hhhh).fsub (hv.fsmall (k := 2) (c := 2) (by decide +kernel))
  exact ⟨hx, (hr.fmul (hv.fsub hx)).fsub (hs1.fmul hhhh), (hz1.fmul hz2).fmul hh⟩

/-- Settles O45: the cases of R153, where equality of U and S is congruence, and the formulas step by step. -/
theorem paddFollowsItsFormulas : Obligations.PaddFollowsItsFormulas := by
  unfold Obligations.PaddFollowsItsFormulas
  intro p q hp hq m X1 Y1 Z1 X2 Y2 Z2 U1 U2 S1 S2 H R V
  have hu1 : Represents (paddU p q) U1 := paddU_represents hp hq
  have hu2 : Represents (paddU q p) U2 := paddU_represents hq hp
  have hs1 : Represents (paddS p q) S1 := paddS_represents hp hq
  have hs2 : Represents (paddS q p) S2 := paddS_represents hq hp
  rw [← isId_iff, ← isId_iff, ← hu1.eq_iff hu2, ← hs1.eq_iff hs2]
  refine ⟨padd_of_isId_left, padd_of_isId_right, fun hpid hqid =>
    ⟨padd_of_same hpid hqid, padd_of_opposite hpid hqid, fun hu => ?_⟩⟩
  obtain ⟨hx, hy, hz⟩ := paddFormula_represents (.self hp.2.2) (.self hq.2.2) hu1 hu2 hs1 hs2
    (H := H) (R := R) (V := V) rfl rfl rfl
  rw [padd_of_distinct hpid hqid hu]
  exact ⟨⟨hx.lt, hy.lt, hz.lt⟩, hx.modEq, hy.modEq, hz.modEq⟩

/-! ## Ranges (R150) -/

theorem padd_inField {p q : Point} (hp : p.InField) (hq : q.InField) : (padd p q).InField := by
  by_cases hpid : p.isId = true
  · rwa [padd_of_isId_left hpid]
  by_cases hqid : q.isId = true
  · rwa [padd_of_isId_right hpid hqid]
  by_cases hu : paddU p q = paddU q p
  · by_cases hs : paddS p q = paddS q p
    · rw [padd_of_same hpid hqid hu hs]
      exact pdbl_inField p
    · rw [padd_of_opposite hpid hqid hu hs]
      exact identity_inField
  · rw [padd_of_distinct hpid hqid hu]
    exact paddFormula_inField _ _ _ _ _ _

/-- Every table entry, and the answer past the end (43_scalar.md R182). -/
theorem tableFrom_inField {base : Point} (hbase : base.InField) :
    ∀ (n : Nat) {p : Point}, p.InField → ∀ i, ((tableFrom base n p).getD i Point.identity).InField
  | 0, _, _, _ => identity_inField
  | _ + 1, _, hp, 0 => hp
  | n + 1, _, hp, i + 1 => tableFrom_inField hbase n (padd_inField hp hbase) i

theorem addDigit_inField {tab : List Point} (htab : ∀ i, (tab.getD i Point.identity).InField) {acc : Point}
    (hacc : acc.InField) (d : Int) : (addDigit tab acc d).InField := by
  unfold addDigit
  split
  · exact padd_inField hacc (htab _)
  · split
    · exact padd_inField hacc (pneg_inField (htab _))
    · exact hacc

theorem accumulate_inField {tab : List Point} (htab : ∀ i, (tab.getD i Point.identity).InField) :
    ∀ ds : List Int, (accumulate tab ds).InField
  | [] => identity_inField
  | d :: _ => addDigit_inField htab (pdbl_inField _) d

theorem smul_inField {p : Point} (hp : p.InField) (k : Value) : (smul p k).InField :=
  accumulate_inField (tableFrom_inField hp _ identity_inField) _

/-- `to_affine` raises the error of the inversion (42_point.md R157). -/
theorem toAffine_of_error {p : Point} {e : CmdError} (h : inverseMod p.z P = .error e) : toAffine p = .error e := by
  unfold toAffine
  simp only [h]

/-- The inversion lemma of `to_affine`. -/
theorem toAffine_eq_ok {p r : Point} (h : toAffine p = .ok r) :
    ∃ zi, inverseMod p.z P = .ok zi ∧ r = lift (fmul p.x (fsq zi)) (fmul p.y (fmul (fsq zi) zi)) := by
  cases hinv : inverseMod p.z P with
  | error e => cases (toAffine_of_error hinv).symm.trans h
  | ok zi =>
    cases (toAffine_ok hinv).symm.trans h
    exact ⟨zi, rfl, rfl⟩

theorem toAffine_inField {p r : Point} (h : toAffine p = .ok r) : r.InField := by
  obtain ⟨zi, -, rfl⟩ := toAffine_eq_ok h
  exact lift_inField (fmul_lt _ _) (fmul_lt _ _)

/-- Settles O49: each operation keeps the field, the multiplier through its table and its accumulator. -/
theorem pointResultsAreCanonical : Obligations.PointResultsAreCanonical := by
  unfold Obligations.PointResultsAreCanonical
  intro p q hp hq
  exact ⟨pneg_inField hp, padd_inField hp hq, pdbl_inField p, smul_inField hp, fun _ => toAffine_inField⟩

/-! ## Illegal fields (30_encoding.md R87) -/

/-- The rows with point registers as D and A and an unused B. -/
theorem operandsIllegal_ppn {op : Nat} (hrow : (⟨op, .r, .p, .p, .unused⟩ : OpcodeRow) ∈ opcodeMap) :
    OperandsIllegal op fun d a b => 8 ≤ d ∨ 8 ≤ a ∨ b ≠ 0 := by
  refine operandsIllegal_of_row hrow fun d a b hbad ⟨hd, ha, hb⟩ => ?_
  rw [FieldKind.legal_p] at hd ha
  rw [FieldKind.legal_unused] at hb
  omega

/-- PADD's row. -/
theorem operandsIllegal_padd : OperandsIllegal 0x21 fun d a b => 8 ≤ d ∨ 8 ≤ a ∨ 8 ≤ b := by
  refine operandsIllegal_of_row (row := ⟨0x21, .r, .p, .p, .p⟩) (by decide) fun d a b hbad ⟨hd, ha, hb⟩ => ?_
  rw [FieldKind.legal_p] at hd ha hb
  omega

/-! ## How the point commands complete (42_point.md R151, R159 to R162) -/

section Commands

variable {s : State} (d : PReg) {a b : PReg}

theorem exec_pneg_of_inField (h : (s.srcPT a).InField) :
    exec (.pneg d a) s = .next (s.finish (.ok (Writes.toPT d (pneg (s.srcPT a))))) := by
  simp only [exec, execPneg, checkRange_ok.2 h]

theorem exec_pneg_of_not_inField (h : ¬ (s.srcPT a).InField) :
    exec (.pneg d a) s = .next (s.finish (.error .operandRange)) := by
  simp only [exec, execPneg, checkRange_not h]

theorem exec_pdbl_of_inField (h : (s.srcPT a).InField) :
    exec (.pdbl d a) s = .next (s.finish (.ok (Writes.toPT d (pdbl (s.srcPT a))))) := by
  simp only [exec, execPdbl, checkRange_ok.2 h]

theorem exec_pdbl_of_not_inField (h : ¬ (s.srcPT a).InField) :
    exec (.pdbl d a) s = .next (s.finish (.error .operandRange)) := by
  simp only [exec, execPdbl, checkRange_not h]

theorem exec_padd_of_inField (ha : (s.srcPT a).InField) (hb : (s.srcPT b).InField) :
    exec (.padd d a b) s = .next (s.finish (.ok (Writes.toPT d (padd (s.srcPT a) (s.srcPT b))))) := by
  simp only [exec, execPadd, checkRange_ok.2 ha, checkRange_ok.2 hb]

theorem exec_padd_of_not_inField (h : ¬ ((s.srcPT a).InField ∧ (s.srcPT b).InField)) :
    exec (.padd d a b) s = .next (s.finish (.error .operandRange)) := by
  by_cases ha : (s.srcPT a).InField
  · simp only [exec, execPadd, checkRange_ok.2 ha, checkRange_not fun hb => h ⟨ha, hb⟩]
  · simp only [exec, execPadd, checkRange_not ha]

theorem exec_paff_of_not_inField (h : ¬ (s.srcPT a).InField) :
    exec (.paff d a) s = .next (s.finish (.error .operandRange)) := by
  simp only [exec, execPaff, checkRange_not h]

theorem exec_paff_of_error {e : CmdError} (h : (s.srcPT a).InField) (he : toAffine (s.srcPT a) = .error e) :
    exec (.paff d a) s = .next (s.finish (.error e)) := by
  simp only [exec, execPaff, checkRange_ok.2 h, he]

theorem exec_paff_of_ok {q : Point} (h : (s.srcPT a).InField) (hq : toAffine (s.srcPT a) = .ok q) :
    exec (.paff d a) s = .next (s.finish (.ok (Writes.toPT d q))) := by
  simp only [exec, execPaff, checkRange_ok.2 h, hq]

end Commands

/-- The negation as a number (R152). -/
theorem pneg_eq_ofNat {p : Point} (h : p.InField) :
    pneg p = { x := p.x, y := BitVec.ofNat 512 ((fieldPrime - p.y.toNat) % fieldPrime), z := p.z } := by
  have hle : p.y ≤ P := by
    rw [BitVec.le_def, P_toNat]
    exact h.2.1.le
  have hy : ((P - p.y) % P).toNat = (fieldPrime - p.y.toNat) % fieldPrime := by
    rw [BitVec.toNat_umod, BitVec.toNat_sub_of_le hle, P_toNat]
  rw [pneg_eq, ofNat_eq_of_toNat hy]

/-- Settles O43: the range check picks the write or the error. -/
theorem pnegNegatesY : Obligations.PnegNegatesY := by
  unfold Obligations.PnegNegatesY
  intro s d a ha
  rw [← s.srcPT_of_marked ha]
  refine ⟨rfl, operandsIllegal_ppn (by decide), fun h => ?_, fun h => .of_exec (exec_pneg_of_not_inField d h)⟩
  rw [← pneg_eq_ofNat h]
  exact .of_exec (exec_pneg_of_inField d h)

/-- Settles O44: the range checks pick the write or the error. -/
theorem paddPdblComplete : Obligations.PaddPdblComplete := by
  unfold Obligations.PaddPdblComplete
  intro s d a b ha hb
  rw [← s.srcPT_of_marked ha, ← s.srcPT_of_marked hb]
  exact ⟨rfl, operandsIllegal_padd, rfl, operandsIllegal_ppn (by decide),
    fun h => .of_exec (exec_pdbl_of_inField d h), fun h => .of_exec (exec_pdbl_of_not_inField d h),
    fun ha hb => .of_exec (exec_padd_of_inField d ha hb), fun h => .of_exec (exec_padd_of_not_inField d h)⟩

/-! ## PAFF (R157, R162) -/

/-- Z = 0 has no inverse (40_integer.md R115). -/
theorem toAffine_of_z_zero {p : Point} (h : p.z.toNat = 0) : toAffine p = .error .notInvertible :=
  toAffine_of_error (inverseMod_of_mod_zero (P_toNat ▸ fieldPrime_pos.ne') (by rw [h, Nat.zero_mod]))

/-- Every other Z below P passes the checks of `inverse_mod`, and the result is below P. -/
theorem inverseMod_P_of_ne_zero {z : Value} (hz : z.toNat < fieldPrime) (hne : z.toNat ≠ 0) :
    ∃ zi, inverseMod z P = .ok zi ∧ zi.toNat < fieldPrime := by
  have hlt : P.toNat < 2 ^ 256 := P_toNat ▸ fieldPrime_lt.trans (Nat.pow_lt_pow_right one_lt_two (by decide))
  have hmod : z.toNat % P.toNat ≠ 0 := by rwa [P_toNat, Nat.mod_eq_of_lt hz]
  obtain ⟨zi, hinv, hzi, -⟩ := inverseMod_modEq_gcd (P_toNat ▸ one_lt_fieldPrime) hlt hmod
  exact ⟨zi, hinv, P_toNat ▸ hzi⟩

/-- The affine coordinates as numbers. -/
theorem lift_eq_ofNat {x y zi : Value} (hx : x.toNat < fieldPrime) (hy : y.toNat < fieldPrime)
    (hzi : zi.toNat < fieldPrime) :
    lift (fmul x (fsq zi)) (fmul y (fmul (fsq zi) zi)) =
      { x := BitVec.ofNat 512 (x.toNat * zi.toNat ^ 2 % fieldPrime)
        y := BitVec.ofNat 512 (y.toNat * zi.toNat ^ 3 % fieldPrime)
        z := 1 } := by
  rw [lift, ← ofNat_eq_of_toNat (fmul_fsq_toNat hx hzi), ← ofNat_eq_of_toNat (fmul_cube_toNat hy hzi)]

/-- Settles O47: the range check first, then the inverse of Z, which only Z = 0 lacks. -/
theorem paffConvertsToAffine : Obligations.PaffConvertsToAffine := by
  unfold Obligations.PaffConvertsToAffine
  intro s d a ha
  rw [← s.srcPT_of_marked ha]
  refine ⟨rfl, operandsIllegal_ppn (by decide), fun h => .of_exec (exec_paff_of_not_inField d h),
    fun h hz => .of_exec (exec_paff_of_error d h (toAffine_of_z_zero hz)), fun h hz => ?_⟩
  obtain ⟨hxlt, hylt, hzlt⟩ := h
  obtain ⟨zi, hinv, hzi⟩ := inverseMod_P_of_ne_zero hzlt hz
  refine ⟨zi, hinv, ?_⟩
  rw [← lift_eq_ofNat hxlt hylt hzi]
  exact .of_exec (exec_paff_of_ok d ⟨hxlt, hylt, hzlt⟩ (toAffine_ok hinv))

end Sys2Proof.Machine
end

section
/-! Proofs about the scalar multiplier (43_scalar.md): the recoding as one digit and one running value after the other,
what the digits sum to and how far apart they are, and the accumulation at the scalars whose digits are few. -/

namespace Sys2Proof.Machine

/-! ## One position of the recoding (R183) -/

/-- The digit of any running value: that of an odd one, and 0 for an even one. -/
def signedDigit (v : Nat) : Int := if v % 2 = 1 then oddDigit v else 0

/-- The running value of the next position. -/
def restAfterDigit (v : Nat) : Nat := ((v : Int) - signedDigit v).toNat / 2

theorem signedDigit_of_odd {v : Nat} (h : v % 2 = 1) : signedDigit v = oddDigit v := if_pos h

theorem signedDigit_of_even {v : Nat} (h : ¬ v % 2 = 1) : signedDigit v = 0 := if_neg h

theorem odd_of_signedDigit_ne_zero {v : Nat} (h : signedDigit v ≠ 0) : v % 2 = 1 := by
  by_contra hv
  exact h (signedDigit_of_even hv)

/-- The digit is the window itself below 16, and the window less 32 from there on. -/
theorem oddDigit_cases (v : Nat) :
    v % 32 < 16 ∧ oddDigit v = (v % 32 : Nat) ∨ 16 ≤ v % 32 ∧ oddDigit v = (v % 32 : Nat) - 32 := by
  by_cases h : 16 ≤ v % 32
  · exact .inr ⟨h, if_pos h⟩
  · exact .inl ⟨Nat.lt_of_not_le h, if_neg h⟩

theorem oddDigit_odd {v : Nat} (h : v % 2 = 1) : oddDigit v % 2 = 1 := by
  rcases oddDigit_cases v with ⟨_, hd⟩ | ⟨_, hd⟩ <;> omega

/-- An even value is halved. -/
theorem restAfterDigit_of_even {v : Nat} (h : ¬ v % 2 = 1) : restAfterDigit v = v / 2 := by
  rw [restAfterDigit, signedDigit_of_even h]
  omega

theorem restAfterDigit_two_mul (v : Nat) : restAfterDigit (2 * v) = v := by
  rw [restAfterDigit_of_even (by omega), Nat.mul_div_cancel_left v two_pos]

/-- An odd value is rounded to the nearest multiple of 32 and halved: four even values follow it. -/
theorem restAfterDigit_of_odd {v : Nat} (h : v % 2 = 1) : restAfterDigit v = 16 * ((v + 16) / 32) := by
  rw [restAfterDigit, signedDigit_of_odd h]
  rcases oddDigit_cases v with ⟨_, hd⟩ | ⟨_, hd⟩ <;> omega

/-- The digit and twice the next running value are the running value. -/
theorem signedDigit_add_rest (v : Nat) : signedDigit v + 2 * (restAfterDigit v : Int) = v := by
  by_cases h : v % 2 = 1
  · rw [signedDigit_of_odd h, restAfterDigit_of_odd h]
    rcases oddDigit_cases v with ⟨_, hd⟩ | ⟨_, hd⟩ <;> omega
  · rw [signedDigit_of_even h, restAfterDigit_of_even h]
    omega

/-- Rounding never passes a power of two, so one position fewer is enough for the rest. -/
theorem restAfterDigit_le {n v : Nat} (hv : v ≤ 2 ^ (n + 1)) : restAfterDigit v ≤ 2 ^ n := by
  by_cases h : v % 2 = 1
  · rw [restAfterDigit_of_odd h]
    by_cases hn : 4 ≤ n
    · obtain ⟨m, rfl⟩ := Nat.exists_eq_add_of_le hn
      have hpow : 2 ^ (4 + m) = 16 * 2 ^ m := pow_add 2 4 m
      omega
    · have hpow : 2 ^ (n + 1) ≤ 2 ^ 4 := Nat.pow_le_pow_right two_pos (by omega)
      omega
  · rw [restAfterDigit_of_even h]
    omega

theorem recodeFrom_succ (n v : Nat) : recodeFrom (n + 1) v = signedDigit v :: recodeFrom n (restAfterDigit v) := by
  rw [recodeFrom]
  split
  · next h => subst h; rfl
  · split
    · next hv => rw [restAfterDigit, signedDigit_of_odd hv]
    · next hv => rw [restAfterDigit_of_even hv, signedDigit_of_even hv]

/-- The digits are those of the successive running values. -/
theorem recodeFrom_eq_map : ∀ n v, recodeFrom n v = (List.iterate restAfterDigit v n).map signedDigit
  | 0, _ => rfl
  | n + 1, v => by rw [recodeFrom_succ, recodeFrom_eq_map n, List.iterate, List.map_cons]

/-! ## The sum of the digits (R187 item 2) -/

theorem digitSum_recodeFrom : ∀ n v, v ≤ 2 ^ n → digitSum (recodeFrom (n + 1) v) = v
  | 0, v, hv => by
    obtain rfl | rfl : v = 0 ∨ v = 1 := by omega
    · rfl
    · rfl
  | n + 1, v, hv => by
    rw [recodeFrom_succ, digitSum, digitSum_recodeFrom n _ (restAfterDigit_le hv), signedDigit_add_rest]

/-- Settles O52: 225 positions hold every value up to 2^224. -/
theorem digitsSumToTheScalar : Obligations.DigitsSumToTheScalar := by
  unfold Obligations.DigitsSumToTheScalar
  intro k hk
  refine ⟨?_, digitSum_recodeFrom 224 _ hk.le⟩
  rw [recode, recodeFrom_eq_map, List.length_map, List.length_iterate, digitCount, keyBits]

/-! ## The distance of nonzero digits (R187 items 1 and 3) -/

/-- A running value divisible by 2^(m+1) is still even m positions later. -/
theorem iterate_rest_even_of_pow_dvd : ∀ m v, 2 ^ (m + 1) ∣ v → ¬ restAfterDigit^[m] v % 2 = 1
  | 0, v, h => by
    rw [Function.iterate_zero_apply]
    omega
  | m + 1, _, ⟨u, rfl⟩ => by
    rw [Function.iterate_succ_apply, pow_succ', mul_assoc, restAfterDigit_two_mul]
    exact iterate_rest_even_of_pow_dvd m _ (Dvd.intro _ rfl)

/-- Four zero digits follow a nonzero one. -/
theorem add_five_le_of_odd {v i j : Nat} (hij : i < j) (hi : restAfterDigit^[i] v % 2 = 1)
    (hj : restAfterDigit^[j] v % 2 = 1) : i + 5 ≤ j := by
  obtain ⟨m, rfl⟩ := Nat.exists_eq_add_of_lt hij
  by_contra hm
  have hdvd : 2 ^ (m + 1) ∣ 16 := pow_dvd_pow 2 (by omega : m + 1 ≤ 4)
  rw [show i + m + 1 = m + (i + 1) by omega, Function.iterate_add_apply, Function.iterate_succ_apply',
    restAfterDigit_of_odd hi] at hj
  exact iterate_rest_even_of_pow_dvd m _ (hdvd.mul_right _) hj

theorem odd_of_recodeFrom_getD_ne_zero {n v i : Nat} (h : (recodeFrom n v).getD i 0 ≠ 0) :
    restAfterDigit^[i] v % 2 = 1 := by
  by_cases hi : i < (recodeFrom n v).length
  · rw [List.getD_eq_getElem _ _ hi] at h
    refine odd_of_signedDigit_ne_zero ?_
    simpa only [recodeFrom_eq_map, List.getElem_map, List.getElem_iterate] using h
  · exact absurd (List.getD_eq_default _ _ (Nat.le_of_not_lt hi)) h

/-- Every nonzero digit is that of an odd running value. -/
theorem odd_of_mem_recodeFrom {n v : Nat} {d : Int} (hd : d ∈ recodeFrom n v) (h : d ≠ 0) : d % 2 = 1 := by
  rw [recodeFrom_eq_map] at hd
  obtain ⟨u, -, rfl⟩ := List.mem_map.1 hd
  have hu := odd_of_signedDigit_ne_zero h
  rw [signedDigit_of_odd hu]
  exact oddDigit_odd hu

/-- Settles O53: nonzero digits belong to odd running values, and four even ones follow each of those. -/
theorem digitsAreOddAndSparse : Obligations.DigitsAreOddAndSparse := by
  unfold Obligations.DigitsAreOddAndSparse
  intro k
  refine ⟨fun d hd hne => ?_, fun i j hij hi hj => ?_⟩
  · have hbound := recode_bound k d hd
    exact ⟨odd_of_mem_recodeFrom hd hne, by omega, by omega⟩
  · exact add_five_le_of_odd hij (odd_of_recodeFrom_getD_ne_zero hi) (odd_of_recodeFrom_getD_ne_zero hj)

/-! ## Digits of small scalars -/

theorem recodeFrom_zero : ∀ n, recodeFrom n 0 = List.replicate n 0
  | 0 => rfl
  | n + 1 => by rw [List.replicate_succ, ← recodeFrom_zero n]; rfl

theorem recodeFrom_two_mul (n v : Nat) : recodeFrom (n + 1) (2 * v) = 0 :: recodeFrom n v := by
  rw [recodeFrom_succ, signedDigit_of_even (by omega), restAfterDigit_two_mul]

section Small

variable {m : Nat} (hodd : m % 2 = 1) (hlt : m < 16)
include hodd hlt

/-- An odd value below 16 is its own only nonzero digit. -/
theorem recodeFrom_of_odd_lt (n : Nat) : recodeFrom (n + 1) m = (m : Int) :: List.replicate n 0 := by
  have hdigit : oddDigit m = m := by
    rcases oddDigit_cases m with ⟨_, hd⟩ | ⟨_, hd⟩ <;> omega
  have hrest : restAfterDigit m = 0 := by rw [restAfterDigit_of_odd hodd]; omega
  rw [recodeFrom_succ, signedDigit_of_odd hodd, hdigit, hrest, recodeFrom_zero]

/-- 32 - m is -m and a carry of 32. -/
theorem recodeFrom_thirty_two_sub (n : Nat) : recodeFrom (n + 1) (32 - m) = -(m : Int) :: recodeFrom n 16 := by
  have hodd' : (32 - m) % 2 = 1 := by omega
  have hdigit : oddDigit (32 - m) = -m := by
    rcases oddDigit_cases (32 - m) with ⟨_, hd⟩ | ⟨_, hd⟩ <;> omega
  have hrest : restAfterDigit (32 - m) = 16 := by rw [restAfterDigit_of_odd hodd']; omega
  rw [recodeFrom_succ, signedDigit_of_odd hodd', hdigit, hrest]

end Small

/-! ## Accumulation (R182, R184) -/

/-- T[i] of R182. -/
def tableEntry (p : Point) (i : Nat) : Point := (fun q => padd q p)^[i] Point.identity

theorem tableEntry_one (p : Point) : tableEntry p 1 = p := by
  rw [tableEntry, Function.iterate_one, padd_identity_left]

/-- One position of R184: a doubling, then the addition of the digit's table entry or of its negation. -/
def digitStep (p : Point) (d : Int) (acc : Point) : Point :=
  if d = 0 then pdbl acc
  else if 0 < d then padd (pdbl acc) (tableEntry p d.toNat)
  else padd (pdbl acc) (pneg (tableEntry p (-d).toNat))

theorem smul_eq_accumulate (p : Point) {k : Value} {m : Nat} (h : k.toNat % N.toNat = m) :
    smul p k = accumulate (table p) (recodeFrom 225 m) := by
  have hm : (reduceScalar k).toNat = m := by rw [reduceScalar, BitVec.toNat_umod, h]
  rw [smul, recode, hm]
  rfl

section Accumulate

variable (p : Point)

theorem accumulate_cons (ds : List Int) {d : Int} (hd : d.natAbs < 16) :
    accumulate (table p) (d :: ds) = digitStep p d (accumulate (table p) ds) := by
  rw [accumulate, digitStep]
  split_ifs with hzero hpos
  · rw [hzero, addDigit_zero]
  · rw [addDigit_pos _ _ hpos hd, show d.natAbs = d.toNat by omega, tableEntry]
  · rw [addDigit_neg _ _ (by omega) hd, show d.natAbs = (-d).toNat by omega, tableEntry]

theorem accumulate_eq_foldr : ∀ {ds : List Int}, (∀ d ∈ ds, d.natAbs < 16) →
    accumulate (table p) ds = ds.foldr (digitStep p) Point.identity
  | [], _ => rfl
  | d :: ds, h => by
    obtain ⟨hd, hds⟩ := List.forall_mem_cons.1 h
    rw [accumulate_cons p ds hd, List.foldr_cons, accumulate_eq_foldr hds]

theorem accumulate_of_odd_lt {m : Nat} (hodd : m % 2 = 1) (hlt : m < 16) (n : Nat) :
    accumulate (table p) (recodeFrom (n + 1) m) = tableEntry p m := by
  rw [recodeFrom_of_odd_lt hodd hlt, accumulate_cons p _ (by omega), accumulate_zeros, digitStep,
    if_neg (by omega), if_pos (by omega), pdbl_of_isId identity_isId, padd_identity_left, Int.toNat_natCast]

theorem accumulate_two_mul (n v : Nat) :
    accumulate (table p) (recodeFrom (n + 1) (2 * v)) = pdbl (accumulate (table p) (recodeFrom n v)) := by
  rw [recodeFrom_two_mul, accumulate, addDigit_zero]

/-- A power of two is a 1 below as many doublings. -/
theorem accumulate_two_pow (n : Nat) : ∀ j, accumulate (table p) (recodeFrom (n + 1 + j) (2 ^ j)) = pdbl^[j] p
  | 0 => by
    rw [Function.iterate_zero_apply, pow_zero, add_zero, accumulate_of_odd_lt p rfl (by decide), tableEntry_one]
  | j + 1 => by
    rw [Function.iterate_succ_apply', ← accumulate_two_pow n j, pow_succ', ← add_assoc, accumulate_two_mul]

theorem accumulate_thirty_two_sub {m : Nat} (hodd : m % 2 = 1) (hlt : m < 16) (n : Nat) :
    accumulate (table p) (recodeFrom (n + 6) (32 - m)) = padd (pdbl^[5] p) (pneg (tableEntry p m)) := by
  have hcarry : accumulate (table p) (recodeFrom (n + 5) 16) = pdbl^[4] p := accumulate_two_pow p n 4
  rw [recodeFrom_thirty_two_sub hodd hlt, accumulate_cons p _ (by omega), hcarry, digitStep, if_neg (by omega),
    if_neg (by omega), neg_neg, Int.toNat_natCast, ← Function.iterate_succ_apply' pdbl]

end Accumulate

/-! ## Identities (R186 corner case 3) -/

theorem pneg_isId {p : Point} (h : p.isId = true) : (pneg p).isId = true := by
  obtain ⟨hx, hy⟩ := (isId_iff p).1 h
  rw [isId_iff, pneg_x, pneg_y, hy]
  exact ⟨hx, by simp⟩

theorem padd_isId {p q : Point} (hp : p.isId = true) (hq : q.isId = true) : (padd p q).isId = true := by
  rwa [padd_of_isId_left hp]

theorem pdbl_isId {p : Point} (h : p.isId = true) : (pdbl p).isId = true := by
  rw [pdbl_of_isId h]
  exact identity_isId

theorem tableEntry_isId {p : Point} (hp : p.isId = true) (i : Nat) : (tableEntry p i).isId = true :=
  Function.Iterate.rec (fun q : Point => q.isId = true) identity_isId (fun _ hq => padd_isId hq hp) i

theorem accumulate_isId {p : Point} (hp : p.isId = true) :
    ∀ {ds : List Int}, (∀ d ∈ ds, d.natAbs < 16) → (accumulate (table p) ds).isId = true
  | [], _ => identity_isId
  | d :: ds, h => by
    obtain ⟨hd, hds⟩ := List.forall_mem_cons.1 h
    have hacc := pdbl_isId (accumulate_isId hp hds)
    rw [accumulate_cons p ds hd, digitStep]
    split_ifs
    · exact hacc
    · exact padd_isId hacc (tableEntry_isId hp _)
    · exact padd_isId hacc (pneg_isId (tableEntry_isId hp _))

/-- Settles O51: the fold digit by digit, and at the small scalars the digits written out. -/
theorem smulCornerCases : Obligations.SmulCornerCases := by
  unfold Obligations.SmulCornerCases
  intro p k _ T
  refine ⟨accumulate_eq_foldr p (recode_bound _), fun h => ?_, fun h => ?_, fun h => ?_,
    fun m hodd hlt => ⟨fun h => ?_, fun h => ?_, fun h => ?_⟩⟩
  · rw [smul_eq_accumulate p h, recodeFrom_zero]
    exact accumulate_zeros _ _
  · rw [smul_eq_accumulate p h, accumulate_of_odd_lt p rfl (by decide), tableEntry_one]
  · exact (isId_iff _).1 (accumulate_isId ((isId_iff p).2 h) (recode_bound _))
  · rw [smul_eq_accumulate p h]
    exact accumulate_of_odd_lt p hodd hlt _
  · rw [smul_eq_accumulate p h, accumulate_two_mul p 224]
    exact congrArg pdbl (accumulate_of_odd_lt p hodd hlt _)
  · rw [smul_eq_accumulate p h]
    exact accumulate_thirty_two_sub p hodd hlt 219

/-! ## SMUL (R186) -/

/-- SMUL's row: point registers as D and A. -/
theorem operandsIllegal_smul : OperandsIllegal 0x30 fun d a _ => 8 ≤ d ∨ 8 ≤ a := by
  refine operandsIllegal_of_row (row := ⟨0x30, .r, .p, .p, .w⟩) (by decide) fun d a b hbad ⟨hd, ha, _⟩ => ?_
  rw [FieldKind.legal_p] at hd ha
  omega

section Command

variable {s : State} (d : PReg) {a : PReg} (b : WReg)

theorem exec_smul_of_inField (h : (s.srcPT a).InField) :
    exec (.smul d a b) s = .next (s.finish (.ok (Writes.toPT d (smul (s.srcPT a) (s.srcW b))))) := by
  simp only [exec, execSmul, checkRange_ok.2 h]

theorem exec_smul_of_not_inField (h : ¬ (s.srcPT a).InField) :
    exec (.smul d a b) s = .next (s.finish (.error .operandRange)) := by
  simp only [exec, execSmul, checkRange_not h]

end Command

/-- Settles O50: the range check picks the write or the error. -/
theorem smulCompletes : Obligations.SmulCompletes := by
  unfold Obligations.SmulCompletes
  intro s d a b ha hb
  rw [← s.srcPT_of_marked ha, ← s.srcW_of_marked hb]
  exact ⟨rfl, operandsIllegal_smul, fun h => .of_exec (exec_smul_of_inField d b h),
    fun h => .of_exec (exec_smul_of_not_inField d b h)⟩

end Sys2Proof.Machine
end

section
/-! Proofs about the key commands (44_key.md): which scalar and point KDRV picks and in which order it fails, and the
packed form as a number, so that PACK, UNPACK and their round trip speak of the same arithmetic. -/

namespace Sys2Proof.Machine

/-! ## Illegal fields (30_encoding.md R87) -/

/-- The rows with a key slot as D, any A and an unused B. -/
theorem operandsIllegal_kwn {op : Nat} (hrow : (⟨op, .r, .k, .w, .unused⟩ : OpcodeRow) ∈ opcodeMap) :
    OperandsIllegal op fun d _ b => 8 ≤ d ∨ b ≠ 0 := by
  refine operandsIllegal_of_row hrow fun d a b hbad ⟨hd, _, hb⟩ => ?_
  rw [FieldKind.legal_k] at hd
  rw [FieldKind.legal_unused] at hb
  omega

/-- KDRV's row: three key slots. -/
theorem operandsIllegal_kdrv : OperandsIllegal 0x41 fun d a b => 8 ≤ d ∨ 8 ≤ a ∨ 8 ≤ b := by
  refine operandsIllegal_of_row (row := ⟨0x41, .r, .k, .k, .k⟩) (by decide) fun d a b hbad ⟨hd, ha, hb⟩ => ?_
  rw [FieldKind.legal_k] at hd ha hb
  omega

/-- PACK's row: a point register as A and an unused B. -/
theorem operandsIllegal_pack : OperandsIllegal 0x42 fun _ a b => 8 ≤ a ∨ b ≠ 0 := by
  refine operandsIllegal_of_row (row := ⟨0x42, .r, .w, .p, .unused⟩) (by decide)
    fun d a b hbad ⟨_, ha, hb⟩ => ?_
  rw [FieldKind.legal_p] at ha
  rw [FieldKind.legal_unused] at hb
  omega

/-! ## KPUB (R201) -/

section Kpub

variable {s : State} (d : Slot) {a : WReg}

theorem exec_kpub_of_ok {q : Point} (h : toAffine (smul Point.base (s.srcW a)) = .ok q) :
    exec (.kpub d a) s = .next (s.finish (.ok (Writes.toSlot d (s.srcW a) q))) := by
  simp only [exec, execKpub, h]

theorem exec_kpub_of_error {e : CmdError} (h : toAffine (smul Point.base (s.srcW a)) = .error e) :
    exec (.kpub d a) s = .next (s.finish (.error e)) := by
  simp only [exec, execKpub, h]

end Kpub

/-- Settles O54: the answer of `to_affine` picks the write or the error. -/
theorem kpubMakesAKey : Obligations.KpubMakesAKey := by
  unfold Obligations.KpubMakesAKey
  intro s d a ha
  rw [← s.srcW_of_marked ha]
  refine ⟨rfl, operandsIllegal_kwn (by decide), ?_⟩
  split
  · next hq => exact .of_exec (exec_kpub_of_ok d hq)
  · next he => exact .of_exec (exec_kpub_of_error d he)

/-! ## KDRV (R202) -/

section Kdrv

variable {s : State} {a b : Slot}

theorem deriveOperands_of_own (h : s.srcW (slotW a) ≠ 0) :
    deriveOperands a b s =
      .ok (lift (s.srcPT (slotPT b)).x (s.srcPT (slotPT b)).y, s.srcW (slotW a)) := if_pos h

theorem deriveOperands_of_peer (ha : s.srcW (slotW a) = 0) (hb : s.srcW (slotW b) ≠ 0) :
    deriveOperands a b s =
      .ok (lift (s.srcPT (slotPT a)).x (s.srcPT (slotPT a)).y, s.srcW (slotW b)) := by
  rw [deriveOperands, if_neg (not_not.2 ha), if_pos hb]

theorem deriveOperands_of_no_scalar (ha : s.srcW (slotW a) = 0) (hb : s.srcW (slotW b) = 0) :
    deriveOperands a b s = .error .cannotDerive := by
  rw [deriveOperands, if_neg (not_not.2 ha), if_neg (not_not.2 hb)]

theorem derivedPoint_of_no_operands {e : CmdError} (h : deriveOperands a b s = .error e) :
    derivedPoint a b s = .error e := by
  simp only [derivedPoint, h]

theorem derivedPoint_of_inField {q : Point} {k : Value} (h : deriveOperands a b s = .ok (q, k)) (hq : q.InField) :
    derivedPoint a b s = toAffine (smul q k) := by
  simp only [derivedPoint, h, checkRange_ok.2 hq]

theorem derivedPoint_of_not_inField {q : Point} {k : Value} (h : deriveOperands a b s = .ok (q, k))
    (hq : ¬ q.InField) : derivedPoint a b s = .error .operandRange := by
  simp only [derivedPoint, h, checkRange_not hq]

variable (d : Slot)

theorem exec_kdrv_of_ok {r : Point} (h : derivedPoint a b s = .ok r) :
    exec (.kdrv d a b) s = .next (s.finish (.ok (Writes.toSlot d 0 r))) := by
  simp only [exec, execKdrv, h]

theorem exec_kdrv_of_error {e : CmdError} (h : derivedPoint a b s = .error e) :
    exec (.kdrv d a b) s = .next (s.finish (.error e)) := by
  simp only [exec, execKdrv, h]

end Kdrv

/-- Settles O55: the scalars pick the operands or CANNOT_DERIVE, and then the range check comes before `to_affine`. -/
theorem kdrvDerives : Obligations.KdrvDerives := by
  unfold Obligations.KdrvDerives
  intro s d a b k q
  refine ⟨rfl, operandsIllegal_kdrv, fun ha hb => ?_⟩
  rw [← s.srcW_of_marked ha, ← s.srcW_of_marked hb]
  refine ⟨fun hza hzb => ?_, fun hpick => ?_⟩
  · exact .of_exec (exec_kdrv_of_error d (derivedPoint_of_no_operands (deriveOperands_of_no_scalar hza hzb)))
  · have hops : deriveOperands a b s = .ok (q, k) := by
      rcases hpick with ⟨hna, rfl, hpt, rfl⟩ | ⟨hza, hnb, rfl, hpt, rfl⟩
      · rw [← s.srcPT_of_marked hpt, deriveOperands_of_own hna, lift]
      · rw [← s.srcPT_of_marked hpt, deriveOperands_of_peer hza hnb, lift]
    refine ⟨fun hq => .of_exec (exec_kdrv_of_error d (derivedPoint_of_not_inField hops hq)), fun hq => ?_⟩
    rw [← derivedPoint_of_inField hops hq]
    split
    · next hr => exact .of_exec (exec_kdrv_of_ok d hr)
    · next he => exact .of_exec (exec_kdrv_of_error d he)

/-! ## The packed form as a number (R203, R204) -/

theorem marker_toNat : marker.toNat = 2 ^ 450 := BitVec.toNat_twoPow_of_lt (by decide)

theorem packPoint_toNat (p : Point) :
    (packPoint p).toNat = 2 ^ 450 ||| p.x.toNat * 2 ^ 224 % 2 ^ 512 ||| p.y.toNat := by
  rw [packPoint, BitVec.toNat_or, BitVec.toNat_or, marker_toNat, keyBits, shl_of_lt _ (by decide),
    BitVec.toNat_ofNat]

/-- The mask of UNPACK keeps the remainder modulo 2^224. -/
theorem toNat_and_keyMask (v : Value) : (v &&& (BitVec.twoPow 512 keyBits - 1)).toNat = v.toNat % 2 ^ 224 := by
  have hmask : (BitVec.twoPow 512 keyBits - 1).toNat = 2 ^ 224 - 1 := by decide +kernel
  rw [BitVec.toNat_and, hmask, Nat.and_two_pow_sub_one_eq_mod]

theorem unpackPoint_eq_ofNat (v : Value) :
    unpackPoint v =
      { x := BitVec.ofNat 512 ((v.toNat ^^^ 2 ^ 450) / 2 ^ 224)
        y := BitVec.ofNat 512 ((v.toNat ^^^ 2 ^ 450) % 2 ^ 224)
        z := 1 } := by
  have hxor : (v ^^^ marker).toNat = v.toNat ^^^ 2 ^ 450 := by rw [BitVec.toNat_xor, marker_toNat]
  rw [unpackPoint, lift, ofNat_eq_of_toNat (toNat_and_keyMask _), keyBits, shr_of_lt _ (by decide), hxor]

/-- Settles O56: both commands always complete, with the numbers above. -/
theorem packAndUnpack : Obligations.PackAndUnpack := by
  unfold Obligations.PackAndUnpack
  refine ⟨fun s d a ha => ?_, fun s d a ha => ?_⟩
  · rw [← s.srcPT_of_marked ha, ← ofNat_eq_of_toNat (packPoint_toNat _)]
    exact ⟨rfl, operandsIllegal_pack, .of_exec rfl⟩
  · rw [← s.srcW_of_marked ha, ← unpackPoint_eq_ofNat]
    exact ⟨rfl, operandsIllegal_kwn (by decide), .of_exec rfl⟩

/-! ## The round trip (R203, R204) -/

/-- A bit set above a number and toggled again. -/
theorem two_pow_or_xor_two_pow {n r : Nat} (h : r < 2 ^ n) : (2 ^ n ||| r) ^^^ 2 ^ n = r := by
  refine Nat.eq_of_testBit_eq fun i => ?_
  rw [Nat.testBit_xor, Nat.testBit_or, Nat.testBit_two_pow]
  by_cases hi : n = i
  · subst hi
    simp [Nat.testBit_lt_two_pow h]
  · simp [hi]

/-- Coordinates below 2^224 do not overlap, so the OR that joins them is their sum. -/
theorem packPoint_toNat_of_lt {p : Point} (hx : p.x.toNat < 2 ^ 224) (hy : p.y.toNat < 2 ^ 224) :
    (packPoint p).toNat = 2 ^ 450 ||| (2 ^ 224 * p.x.toNat + p.y.toNat) := by
  have hfit : p.x.toNat * 2 ^ 224 < 2 ^ 512 := by omega
  rw [packPoint_toNat, Nat.mod_eq_of_lt hfit, Nat.lor_assoc, Nat.mul_comm, ← Nat.two_pow_add_eq_or_of_lt hy]

/-- Settles O57: the marker lies above both coordinates, so the toggle takes it away and bit 224 parts them. -/
theorem unpackInvertsPack : Obligations.UnpackInvertsPack := by
  unfold Obligations.UnpackInvertsPack
  intro p hx hy
  have hlt : 2 ^ 224 * p.x.toNat + p.y.toNat < 2 ^ 450 := by omega
  have hpack := packPoint_toNat_of_lt hx hy
  refine ⟨?_, ?_, ?_⟩
  · rw [unpackPoint_eq_ofNat, hpack, two_pow_or_xor_two_pow hlt, Nat.mul_add_div (by decide), Nat.mul_add_mod,
      Nat.div_eq_of_lt hy, Nat.mod_eq_of_lt hy, Nat.add_zero, ← ofNat_eq_of_toNat rfl, ← ofNat_eq_of_toNat rfl]
  · rw [hpack]
    exact Nat.left_le_or
  · rw [hpack]
    have hpow : 2 ^ 450 < 2 ^ 451 := Nat.pow_lt_pow_right one_lt_two (by decide)
    exact Nat.or_lt_two_pow hpow (hlt.trans hpow)

end Sys2Proof.Machine
end

section
/-! Proofs about the host's texts (45_host_text.md): HexFormat writes the base-16 digits of a value, as many as its
logarithm says, and HexParse reads them back. -/

namespace Sys2Proof.Machine

/-! ## One digit (R222, R223) -/

theorem hexDigitValue_hexDigit : ∀ d < 16, hexDigitValue (hexDigit d) = some d := by decide

theorem hexDigit_ne_zero_octet : ∀ d < 16, d ≠ 0 → hexDigit d ≠ 0x30#8 := by decide

/-! ## The digits of a number (R223) -/

theorem hexDigitsFrom_of_lt {n : Nat} (h : n < 16) (k : Nat) (acc : List Byte) :
    hexDigitsFrom (k + 1) n acc = hexDigit n :: acc := if_pos h

theorem hexDigitsFrom_of_ge {n : Nat} (h : 16 ≤ n) (k : Nat) (acc : List Byte) :
    hexDigitsFrom (k + 1) n acc = hexDigitsFrom k (n / 16) (hexDigit (n % 16) :: acc) := if_neg h.not_gt

theorem div_lt_pow_of_lt_pow_succ {n k : Nat} (h : n < 16 ^ (k + 1)) : n / 16 < 16 ^ k := by
  rw [Nat.pow_succ] at h
  omega

theorem hexValueFrom_hexDigit_cons {d : Nat} (hd : d < 16) (a : Nat) (text : List Byte) :
    hexValueFrom a (hexDigit d :: text) = hexValueFrom (a * 16 + d) text := by
  rw [hexValueFrom, hexDigitValue_hexDigit d hd]

/-- Reading the digits of `n` and then `acc` is reading `acc` after the value `n`. -/
theorem hexValueFrom_hexDigitsFrom :
    ∀ {k n : Nat} (acc : List Byte), n < 16 ^ k → hexValueFrom 0 (hexDigitsFrom k n acc) = hexValueFrom n acc
  | 0, n, acc, h => by
    obtain rfl : n = 0 := by omega
    rfl
  | k + 1, n, acc, h => by
    rcases Nat.lt_or_ge n 16 with hn | hn
    · rw [hexDigitsFrom_of_lt hn, hexValueFrom_hexDigit_cons hn, Nat.zero_mul, Nat.zero_add]
    · rw [hexDigitsFrom_of_ge hn, hexValueFrom_hexDigitsFrom _ (div_lt_pow_of_lt_pow_succ h),
        hexValueFrom_hexDigit_cons (Nat.mod_lt n (by decide)), Nat.div_add_mod']

/-- As many digits as the logarithm to base 16 says; 0 has one. -/
theorem length_hexDigitsFrom :
    ∀ {k n : Nat} (acc : List Byte), n < 16 ^ (k + 1) →
      (hexDigitsFrom (k + 1) n acc).length = Nat.log 16 n + 1 + acc.length
  | k, n, acc, h => by
    rcases Nat.lt_or_ge n 16 with hn | hn
    · rw [hexDigitsFrom_of_lt hn, Nat.log_of_lt hn, List.length_cons]
      omega
    · cases k with
      | zero => omega
      | succ k =>
        rw [hexDigitsFrom_of_ge hn, length_hexDigitsFrom _ (div_lt_pow_of_lt_pow_succ h),
          Nat.log_of_one_lt_of_le (by decide) hn, List.length_cons]
        omega

/-- The first digit of a number other than 0 is not `0`. -/
theorem head_hexDigitsFrom_ne_zero_octet :
    ∀ {k n : Nat} (acc : List Byte), n < 16 ^ k → n ≠ 0 → (hexDigitsFrom k n acc).head? ≠ some 0x30#8
  | 0, n, acc, h, hne => by omega
  | k + 1, n, acc, h, hne => by
    rcases Nat.lt_or_ge n 16 with hn | hn
    · rw [hexDigitsFrom_of_lt hn, List.head?_cons, Ne, Option.some_inj]
      exact hexDigit_ne_zero_octet n hn hne
    · rw [hexDigitsFrom_of_ge hn]
      exact head_hexDigitsFrom_ne_zero_octet _ (div_lt_pow_of_lt_pow_succ h) (by omega)

/-! ## HexFormat (R223) -/

theorem hexValueFrom_leftpad (m : Nat) (text : List Byte) :
    hexValueFrom 0 (text.leftpad m 0x30) = hexValueFrom 0 text := by
  rw [List.leftpad]
  induction m - text.length with
  | zero => rfl
  | succ n ih => rwa [List.replicate_succ, List.cons_append]

theorem toNat_lt_pow_digits (v : Value) : v.toNat < 16 ^ (127 + 1) :=
  v.isLt.trans_eq (Nat.pow_mul 2 4 128)

/-- HexFormat fills up to 64 octets and writes more only where the digits need them. -/
theorem length_hexFormat (v : Value) : (hexFormat v).length = max 64 (Nat.log 16 v.toNat + 1) := by
  rw [hexFormat, List.length_leftpad, length_hexDigitsFrom [] (toNat_lt_pow_digits v)]
  rfl

/-- HexParse reads the text of HexFormat back (R236). -/
theorem hexParse_hexFormat (v : Value) : hexParse (hexFormat v) = .ok v := by
  have hne : hexFormat v ≠ [] := by
    rw [← List.length_pos_iff, length_hexFormat]
    omega
  have hval : hexValueFrom 0 (hexFormat v) = some v.toNat := by
    rw [hexFormat, hexValueFrom_leftpad, hexValueFrom_hexDigitsFrom [] (toNat_lt_pow_digits v)]
    rfl
  rw [hexParse, if_neg hne, hval]
  exact (if_pos v.isLt).trans (congrArg Except.ok (ofNat_eq_of_toNat rfl).symm)

/-- Settles O58: more than 64 octets are there only where the digits fill them, and then no `0` is put before them. -/
theorem hexTextRoundTrip : Obligations.HexTextRoundTrip := by
  unfold Obligations.HexTextRoundTrip
  intro v
  have hlog : Nat.log 16 v.toNat < 127 + 1 := Nat.log_lt_of_lt_pow' (by decide) (toNat_lt_pow_digits v)
  have hlen := length_hexFormat v
  refine ⟨hexParse_hexFormat v, by omega, by omega, fun hlong => ?_⟩
  have hdigits := length_hexDigitsFrom [] (toNat_lt_pow_digits v)
  have hne : v.toNat ≠ 0 := fun h => by
    rw [h, Nat.log_zero_right] at hlen
    omega
  have hpad : minHex - (hexDigitsFrom (127 + 1) v.toNat []).length = 0 := by
    rw [hdigits, List.length_nil, minHex]
    omega
  rw [hexFormat, List.leftpad, hpad]
  exact head_hexDigitsFrom_ne_zero_octet [] (toNat_lt_pow_digits v) hne

end Sys2Proof.Machine
end

section
/-! Proofs about the host driver (45_host_text.md): what the limb writes and reads of one register leave behind, how a
command ends as the host sees it, and what each of the Key operations answers. -/

namespace Sys2Proof.Machine

/-! ## Writing a register limb by limb (20_memory.md R52, 70_reset_and_hazards.md R282) -/

/-- If writing limb j keeps `inv`, makes `held j` true and keeps every other `held k`, then after the 16 writes `inv`
is kept and every limb is held. -/
theorem writeLimbs_holds {addr : Fin 16 → Addr} {v : Value} {inv : State → Prop} {held : Fin 16 → State → Prop}
    (hwrite : ∀ s j, inv s → inv (s.busWrite (addr j) 32 (limb v j)) ∧
      ∀ k, k = j ∨ held k s → held k (s.busWrite (addr j) 32 (limb v j)))
    {s : State} (hs : inv s) : inv (writeLimbs addr v s) ∧ ∀ k, held k (writeLimbs addr v s) := by
  suffices h : ∀ (js : List (Fin 16)) (s : State), inv s →
      let t := js.foldl (fun s j => s.busWrite (addr j) 32 (limb v j)) s
      inv t ∧ ∀ k, k ∈ js ∨ held k s → held k t by
    obtain ⟨hinv, hheld⟩ := h (List.finRange 16) s hs
    exact ⟨hinv, fun k => hheld k (.inl (List.mem_finRange k))⟩
  intro js
  induction js with
  | nil => exact fun s hs => ⟨hs, fun k hk => hk.resolve_left List.not_mem_nil⟩
  | cons j js ih =>
    intro s hs
    obtain ⟨hinv, hheld⟩ := hwrite s j hs
    obtain ⟨hinv', hheld'⟩ := ih _ hinv
    refine ⟨hinv', fun k hk => hheld' k ?_⟩
    rw [List.mem_cons] at hk
    have := hheld k
    tauto

/-- Limb j of W[i] counts as written and is the limb of `v`. -/
def State.HoldsW (s : State) (i : WReg) (v : Value) (j : Fin 16) : Prop :=
  limb s.w[i] j = limb v j ∧ s.wLimbs[i].getLsbD j.val = true

/-- Limb j of coordinate c of PT[i] counts as written and is the limb of `p`. -/
def State.HoldsPT (s : State) (i : PReg) (p : Point) (c : Fin 3) (j : Fin 16) : Prop :=
  limb (s.pt[i].coord c) j = limb (p.coord c) j ∧ s.ptLimbs[i].getLsbD (16 * c.val + j.val) = true

/-- A register all of whose limbs are held has the value and is initialised. -/
theorem State.w_eq_of_holdsW {s : State} {i : WReg} {v : Value} (h : ∀ j, s.HoldsW i v j) :
    s.w[i] = v ∧ s.wMarked i = true :=
  ⟨value_ext fun j => (h j).1, (s.wMarked_iff i).2 fun j => (h j).2⟩

theorem State.pt_eq_of_holdsPT {s : State} {i : PReg} {p : Point} (h : ∀ c j, s.HoldsPT i p c j) :
    s.pt[i] = p ∧ s.ptMarked i = true :=
  ⟨Point.ext_coord fun c => value_ext fun j => (h c j).1, (s.ptMarked_iff i).2 fun c j => (h c j).2⟩

section Pokes

variable {s : State} (v : Value) (p : Point)

theorem State.holdsW_pokeW {i : WReg} {j k : Fin 16} (h : k = j ∨ s.HoldsW i v k) :
    (s.pokeW i j (limb v j)).HoldsW i v k := by
  rw [State.HoldsW, State.pokeW_limb, State.pokeW_counts]
  by_cases hk : k = j
  · simp [hk]
  · obtain ⟨hlimb, hcount⟩ := h.resolve_left hk
    rw [if_neg hk, hlimb, hcount, Bool.or_true]
    exact ⟨rfl, rfl⟩

theorem State.holdsPT_pokePT {i : PReg} {c d : Fin 3} {j k : Fin 16} (h : d = c ∧ k = j ∨ s.HoldsPT i p d k) :
    (s.pokePT i c j (limb (p.coord c) j)).HoldsPT i p d k := by
  rw [State.HoldsPT, State.pokePT_limb, State.pokePT_counts]
  by_cases hdk : d = c ∧ k = j
  · simp [hdk]
  · obtain ⟨hlimb, hcount⟩ := h.resolve_left hdk
    rw [if_neg hdk, hlimb, hcount, Bool.or_true]
    exact ⟨rfl, rfl⟩

end Pokes

section Writes

variable {s : State} (hb : s.status.busy = false)
include hb

/-- The 16 writes of a W register of an idle block leave the value in it and STATUS as it is. -/
theorem hostWriteW_holds (i : WReg) (v : Value) :
    (hostWriteW i v s).w[i] = v ∧ (hostWriteW i v s).wMarked i = true ∧ (hostWriteW i v s).status = s.status := by
  have hwrite : ∀ (t : State) (j : Fin 16), t.status = s.status →
      (t.busWrite (wAddr i j) 32 (limb v j)).status = s.status ∧
        ∀ k, k = j ∨ t.HoldsW i v k → (t.busWrite (wAddr i j) 32 (limb v j)).HoldsW i v k := by
    intro t j ht
    rw [t.busWrite_w _ (ht ▸ hb)]
    exact ⟨ht, fun k hk => State.holdsW_pokeW v hk⟩
  obtain ⟨hstatus, hheld⟩ := writeLimbs_holds hwrite rfl
  obtain ⟨hw, hm⟩ := State.w_eq_of_holdsW hheld
  exact ⟨hw, hm, hstatus⟩

/-- The 16 writes of coordinate c keep the coordinates of `p` that are there and add this one. -/
theorem writeCoord_holds (i : PReg) (p : Point) (c : Fin 3) :
    let t := writeLimbs (ptAddr i c) (p.coord c) s
    t.status = s.status ∧ ∀ d k, d = c ∨ s.HoldsPT i p d k → t.HoldsPT i p d k := by
  have hwrite : ∀ (t : State) (j : Fin 16),
      (t.status = s.status ∧ ∀ d k, s.HoldsPT i p d k → t.HoldsPT i p d k) →
      let u := t.busWrite (ptAddr i c j) 32 (limb (p.coord c) j)
      (u.status = s.status ∧ ∀ d k, s.HoldsPT i p d k → u.HoldsPT i p d k) ∧
        ∀ k, k = j ∨ t.HoldsPT i p c k → u.HoldsPT i p c k := by
    rintro t j ⟨ht, hkept⟩
    rw [t.busWrite_pt _ (ht ▸ hb)]
    exact ⟨⟨ht, fun d k hk => State.holdsPT_pokePT p (.inr (hkept d k hk))⟩,
      fun k hk => State.holdsPT_pokePT p (hk.imp_left fun h => ⟨rfl, h⟩)⟩
  obtain ⟨⟨hstatus, hkept⟩, hheld⟩ := writeLimbs_holds hwrite ⟨rfl, fun _ _ => id⟩
  refine ⟨hstatus, ?_⟩
  rintro d k (rfl | hk)
  · exact hheld k
  · exact hkept d k hk

/-- The 48 writes of a PT register of an idle block leave the point in it and STATUS as it is. -/
theorem hostWritePT_holds (i : PReg) (p : Point) :
    (hostWritePT i p s).pt[i] = p ∧ (hostWritePT i p s).ptMarked i = true ∧
      (hostWritePT i p s).status = s.status := by
  obtain ⟨hsx, hx⟩ := writeCoord_holds hb i p 0
  obtain ⟨hsy, hy⟩ := writeCoord_holds (hsx ▸ hb) i p 1
  obtain ⟨hsz, hz⟩ := writeCoord_holds (hsy.trans hsx ▸ hb) i p 2
  have hheld : ∀ c j, (hostWritePT i p s).HoldsPT i p c j := by
    intro c j
    refine hz c j ?_
    match c with
    | 0 => exact .inr (hy 0 j (.inr (hx 0 j (.inl rfl))))
    | 1 => exact .inr (hy 1 j (.inl rfl))
    | 2 => exact .inl rfl
  obtain ⟨hpt, hm⟩ := State.pt_eq_of_holdsPT hheld
  exact ⟨hpt, hm, hsz.trans (hsy.trans hsx)⟩

end Writes

/-! ## Reading a register limb by limb (R52, R53) -/

/-- Where every read answers its limb of `x` and leaves only the answer behind, the 16 reads give `x`. -/
theorem readLimbs_eq {addr : Fin 16 → Addr} {x : Value} {s : State}
    (hread : ∀ r j, ({ s with response := r } : State).busRead (addr j) 32 =
      { s with response := .data (addr j) (limb x j) }) :
    ∃ r, readLimbs addr s = (x, { s with response := r }) := by
  suffices h : ∀ (js : List (Fin 16)) (y : Value) (r : Response), ∃ y' r',
      js.foldl (fun r j => (setLimb r.1 j (r.2.busRead (addr j) 32).answer, r.2.busRead (addr j) 32))
        (y, ({ s with response := r } : State)) = (y', { s with response := r' }) ∧
      ∀ k, k ∈ js ∨ limb y k = limb x k → limb y' k = limb x k by
    obtain ⟨y, r, hfold, hlimbs⟩ := h (List.finRange 16) 0 s.response
    obtain rfl : y = x := value_ext fun k => hlimbs k (.inl (List.mem_finRange k))
    exact ⟨r, hfold⟩
  intro js
  induction js with
  | nil => exact fun y r => ⟨y, r, rfl, fun k hk => hk.resolve_left List.not_mem_nil⟩
  | cons j js ih =>
    intro y r
    obtain ⟨y', r', hfold, hlimbs⟩ := ih (setLimb y j (limb x j)) (.data (addr j) (limb x j))
    refine ⟨y', r', ?_, fun k hk => hlimbs k ?_⟩
    · rw [List.foldl_cons, hread]
      exact hfold
    · rw [limb_setLimb]
      by_cases hkj : k = j
      · exact .inr (by rw [if_pos hkj, hkj])
      · rw [if_neg hkj]
        exact hk.imp_left fun h => (List.mem_cons.1 h).resolve_left hkj

section Reads

variable {s : State} (hb : s.status.busy = false)
include hb

theorem readLimbs_wAddr {i : WReg} (hm : s.wMarked i = true) :
    ∃ r, readLimbs (wAddr i) s = (s.w[i], { s with response := r }) :=
  readLimbs_eq fun r _ => State.busRead_w { s with response := r } hb hm

theorem readLimbs_ptAddr {i : PReg} (c : Fin 3) (hm : s.ptMarked i = true) :
    ∃ r, readLimbs (ptAddr i c) s = (s.pt[i].coord c, { s with response := r }) :=
  readLimbs_eq fun r _ => State.busRead_pt { s with response := r } hb hm

/-- The host reads an initialised slot of an idle block as it is. -/
theorem readSlot_fst {k : Slot} (hw : s.wMarked (slotW k) = true) (hpt : s.ptMarked (slotPT k) = true) :
    (readSlot k s).1 = { s := s.w[slotW k], x := s.pt[slotPT k].x, y := s.pt[slotPT k].y } := by
  obtain ⟨r, hs⟩ := readLimbs_wAddr hb hw
  obtain ⟨r', hx⟩ := readLimbs_ptAddr (s := { s with response := r }) hb 0 hpt
  obtain ⟨r'', hy⟩ := readLimbs_ptAddr (s := { s with response := r' }) hb 1 hpt
  simp only [readSlot, hs, hx, hy]
  rfl

end Reads

/-! ## A command as the host sees it (70_reset_and_hazards.md R290, R231) -/

/-- The host has written the command and the core has not moved yet. -/
def State.commanded (s : State) (i : Instr) : State := { s.accept (encode i) with response := .written cmdAddr }

theorem State.commanded_srcW {s : State} {a : WReg} (i : Instr) (hm : s.wMarked a = true) :
    (s.commanded i).srcW a = s.w[a] := State.srcW_of_marked _ hm

theorem State.commanded_srcPT {s : State} {a : PReg} (i : Instr) (hm : s.ptMarked a = true) :
    (s.commanded i).srcPT a = s.pt[a] := State.srcPT_of_marked _ hm

/-- An idle block takes the command and runs it, and the host's STATUS read answers how it ended. -/
theorem issue_of_exec {s t : State} {i : Instr} (hb : s.status.busy = false) (hi : i.wellFormed = true)
    (ht : exec i (s.commanded i) = .next t) :
    issue i s = { t with response := .data statusAddr t.status.word } := by
  have hturn : coreTurn (s.commanded i) = .next t := (coreTurn_of_decode_ok rfl (decode_encode hi)).trans ht
  have hwrite : s.busWrite cmdAddr 32 (encode i) = s.commanded i := s.busWrite_cmd_idle _ hb
  simp only [issue, hwrite, hturn]
  exact t.busRead_answers accessOk_statusAddr locate_statusAddr rfl

/-- The host has an error exactly where ERR = 1. -/
theorem statusError_isSome (st : Status) : (statusError st.word).isSome = st.err := by
  have hbit : st.word.getLsbD 2 = st.err := by rw [Status.getLsbD_word]; simp
  rw [statusError, hbit]
  cases st.err with
  | false => rfl
  | true => rw [if_pos rfl]; split <;> rfl

theorem statusError_of_no_err {st : Status} (h : st.err = false) : statusError st.word = none := by
  rw [← Option.isNone_iff_eq_none, ← Option.isSome_eq_false_iff, statusError_isSome, h]

theorem statusError_of_err {st : Status} (h : st.err = true) : ∃ e, statusError st.word = some e := by
  rw [← Option.isSome_iff_exists, statusError_isSome, h]

section Outcome

variable {s : State} {i : Instr} (hb : s.status.busy = false) (hi : i.wellFormed = true)
include hb hi

/-- A command that writes slot k gives the host what it wrote. -/
theorem slotOutcome_of_writesSlot {k : Slot} {v : Value} {q : Point} (h : WritesSlot i (s.commanded i) k v q) :
    (slotOutcome k (issue i s)).1 = .ok { s := v, x := q.x, y := q.y } := by
  obtain ⟨t, ht, rfl, hw, rfl, hpt, hok, -, -⟩ := h
  have hread := readSlot_fst (s := { t with response := .data statusAddr t.status.word }) hok.busy hw hpt
  simp only [issue_of_exec hb hi ht, slotOutcome, State.answer, statusError_of_no_err hok.err, hread]

/-- A command that fails gives the host an error. -/
theorem slotOutcome_of_failsWith {k : Slot} {e : CmdError} (h : FailsWith i (s.commanded i) e) :
    ∃ e', (slotOutcome k (issue i s)).1 = .error e' := by
  obtain ⟨t, ht, herr, -, -⟩ := h
  obtain ⟨e', he'⟩ := statusError_of_err herr.err
  refine ⟨e', ?_⟩
  simp only [issue_of_exec hb hi ht, slotOutcome, State.answer, he']

end Outcome

/-! ## The Key operations (45_host_text.md R224 to R228, R234, R235) -/

theorem publicLength_eq : publicLength = 113 := rfl

theorem compressedLength_eq : compressedLength = 57 := rfl

section Operations

variable {s : State} (hb : s.status.busy = false)
include hb

/-- A command the host issues after writing a W register reads what the host wrote. -/
theorem srcW_hostWriteW (i : Instr) (a : WReg) (v : Value) : ((hostWriteW a v s).commanded i).srcW a = v := by
  obtain ⟨hw, hm, -⟩ := hostWriteW_holds hb a v
  rw [State.commanded_srcW i hm, hw]

theorem srcPT_hostWritePT (i : Instr) (a : PReg) (p : Point) : ((hostWritePT a p s).commanded i).srcPT a = p := by
  obtain ⟨hpt, hm, -⟩ := hostWritePT_holds hb a p
  rw [State.commanded_srcPT i hm, hpt]

theorem hostWriteW_idle (a : WReg) (v : Value) : (hostWriteW a v s).status.busy = false := by
  obtain ⟨-, -, hstatus⟩ := hostWriteW_holds hb a v
  rw [hstatus, hb]

theorem hostWritePT_idle (a : PReg) (p : Point) : (hostWritePT a p s).status.busy = false := by
  obtain ⟨-, -, hstatus⟩ := hostWritePT_holds hb a p
  rw [hstatus, hb]

/-- `from_private_hex` answers a Key exactly where the text parses and KPUB makes one: slot and state do not matter. -/
theorem fromPrivateHex_eq_ok_iff (k : Slot) (text : List Byte) (key : HostKey) :
    (fromPrivateHex k text s).1 = .ok key ↔
      ∃ v q, hexParse text = .ok v ∧ toAffine (smul Point.base v) = .ok q ∧ { s := v, x := q.x, y := q.y } = key := by
  cases hv : hexParse text with
  | error e => simp [fromPrivateHex, hv]
  | ok v =>
    have hidle := hostWriteW_idle hb (slotW k) v
    have hsrc := srcW_hostWriteW hb (.kpub k (slotW k)) (slotW k) v
    simp only [fromPrivateHex, hv]
    cases hq : toAffine (smul Point.base v) with
    | error e =>
      obtain ⟨e', he'⟩ := slotOutcome_of_failsWith (k := k) hidle rfl
        (.of_exec (exec_kpub_of_error k (by rwa [hsrc])))
      simp [he', hq]
    | ok q =>
      have hkey := slotOutcome_of_writesSlot hidle rfl (.of_exec (exec_kpub_of_ok k (by rwa [hsrc])))
      simp [hkey, hsrc, hq]

/-- `from_public_hex` of a text of 113 octets that parses answers the point UNPACK makes of its value. -/
theorem fromPublicHex_of_parse (k : Slot) {text : List Byte} {v : Value} (hlen : text.length = 113)
    (hv : hexParse text = .ok v) :
    (fromPublicHex k text s).1 = .ok { s := 0, x := (unpackPoint v).x, y := (unpackPoint v).y } := by
  have hout := slotOutcome_of_writesSlot (hostWriteW_idle hb (slotW k) v) (i := .unpack k (slotW k)) rfl (.of_exec rfl)
  rw [srcW_hostWriteW hb] at hout
  simp only [fromPublicHex, publicLength_eq, if_pos hlen, hv, hout]

/-- `get_public_hex` answers the text of the value PACK makes of the point. -/
theorem getPublicHex_fst (i : PReg) (j : WReg) (key : HostKey) :
    (getPublicHex i j key s).1 = .ok (hexFormat (packPoint (lift key.x key.y))) := by
  have hidle := hostWritePT_idle hb i (lift key.x key.y)
  obtain ⟨t, ht, hw, hm, hok, -, -⟩ := WritesW.of_exec (i := .pack j i) (d := j)
    (s := (hostWritePT i (lift key.x key.y) s).commanded (.pack j i)) rfl
  rw [srcPT_hostWritePT hb] at hw
  obtain ⟨r, hread⟩ := readLimbs_wAddr (s := { t with response := .data statusAddr t.status.word }) hok.busy hm
  simp only [getPublicHex, issue_of_exec hidle rfl ht, State.answer, statusError_of_no_err hok.err, hread, hw]

end Operations

/-! ## The length of a public key text (R234 to R236) -/

theorem fromPublicHex_of_compressed (k : Slot) {text : List Byte} (s : State) (h : text.length = 57) :
    fromPublicHex k text s = (.error .unsupportedFormat, s) := by
  rw [fromPublicHex, publicLength_eq, compressedLength_eq, if_neg (by omega), if_pos h]

theorem fromPublicHex_of_other_length (k : Slot) {text : List Byte} (s : State) (h : text.length ≠ 57)
    (h' : text.length ≠ 113) : fromPublicHex k text s = (.error .invalidLength, s) := by
  rw [fromPublicHex, publicLength_eq, compressedLength_eq, if_neg h', if_neg h]

/-- HexParse has one failure (R222). -/
theorem hexParse_error {text : List Byte} {e : HostError} (h : hexParse text = .error e) : e = .parseError := by
  unfold hexParse at h
  split at h
  · exact (Except.error.inj h).symm
  · split at h
    · split at h
      · cases h
      · exact (Except.error.inj h).symm
    · exact (Except.error.inj h).symm

theorem fromPublicHex_of_parse_error (k : Slot) {text : List Byte} {e : HostError} (s : State)
    (h : text.length = 113) (he : hexParse text = .error e) : fromPublicHex k text s = (.error .parseError, s) := by
  obtain rfl := hexParse_error he
  simp only [fromPublicHex, publicLength_eq, if_pos h, he]

/-- The digits of a packed point: the marker alone needs 113 of them. -/
theorem length_hexFormat_packPoint {p : Point} (hx : p.x.toNat < 2 ^ 224) (hy : p.y.toNat < 2 ^ 224) :
    (hexFormat (packPoint p)).length = 113 := by
  obtain ⟨-, hge, hlt⟩ := unpackInvertsPack p hx hy
  have hlog : Nat.log 16 (packPoint p).toNat = 112 :=
    Nat.log_eq_of_pow_le_of_lt_pow (le_trans (by decide +kernel) hge) (hlt.trans (by decide +kernel))
  rw [length_hexFormat, hlog]
  rfl

/-- Settles O59: the two length tests come first, and the block is reached only past HexParse. -/
theorem publicTextIsCheckedByLength : Obligations.PublicTextIsCheckedByLength := by
  unfold Obligations.PublicTextIsCheckedByLength
  exact fun k text s => ⟨fromPublicHex_of_compressed k s, fromPublicHex_of_other_length k s,
    fun hlen _ he => fromPublicHex_of_parse_error k s hlen he⟩

/-- Settles O60: HexParse gives the packed value back and UNPACK its point; and what `from_private_hex` answers depends
on the parsed value alone, which is the scalar of the Key. -/
theorem publicTextRoundTrip : Obligations.PublicTextRoundTrip := by
  unfold Obligations.PublicTextRoundTrip
  refine ⟨fun k i j key s s' hb hb' hx hy => ?_, fun k k' key text s s' hb hb' h => ?_⟩
  · have hlen := length_hexFormat_packPoint (p := lift key.x key.y) hx hy
    refine ⟨_, getPublicHex_fst hb i j key, hlen, ?_⟩
    rw [fromPublicHex_of_parse hb' k hlen (hexParse_hexFormat _), (unpackInvertsPack (lift key.x key.y) hx hy).1]
    rfl
  · obtain ⟨v, q, -, hq, rfl⟩ := (fromPrivateHex_eq_ok_iff hb k text key).1 h
    exact (fromPrivateHex_eq_ok_iff hb' k' _ _).2 ⟨v, q, hexParse_hexFormat v, hq, rfl⟩

end Sys2Proof.Machine
end

section
/-! Proofs about the life of a command (60_exceptions.md): its acceptance, the host writes dropped while it runs, and
the two ways its completion can leave an error in STATUS. -/

namespace Sys2Proof.Machine

/-! ## Acceptance (60_exceptions.md R255) -/

/-- Settles O8: the head of the schedule is a CMD write to an idle block, which is its acceptance. -/
theorem acceptanceStartsTheCommand : Obligations.AcceptanceStartsTheCommand := by
  unfold Obligations.AcceptanceStartsTheCommand
  intro s v es hb hs
  have hstep : step s = .next { (s.withSchedule es).accept v with response := .written cmdAddr } :=
    (step_of_cons hs).trans (congrArg _ ((s.withSchedule es).busWrite_cmd_idle v hb))
  exact ⟨_, hstep, rfl, rfl, rfl, rfl, rfl, rfl, rfl, rfl, rfl, rfl, rfl, rfl, rfl, rfl⟩

/-! ## Dropped writes (20_memory.md R59, 60_exceptions.md R256) -/

/-- The W window (R51). -/
theorem locate_w {a : Addr} (h : 0x1000 ≤ a.toNat ∧ a.toNat < 0x1400) : ∃ i j, locate a = .w i j := by
  unfold locate
  simp only []
  rw [if_neg (by omega), if_neg (by omega), if_neg (by omega), if_neg (by omega), if_neg (by omega), dif_pos h]
  exact ⟨_, _, rfl⟩

/-- The PT window (R51). -/
theorem locate_pt {a : Addr} (h : 0x2000 ≤ a.toNat ∧ a.toNat < 0x2600) : ∃ i c j, locate a = .pt i c j := by
  unfold locate
  simp only []
  rw [if_neg (by omega), if_neg (by omega), if_neg (by omega), if_neg (by omega), if_neg (by omega),
    dif_neg (by omega), dif_pos h]
  exact ⟨_, _, _, rfl⟩

theorem locate_droppedWhileBusy {a : Addr}
    (h : a = cmdAddr ∨ (0x1000 ≤ a.toNat ∧ a.toNat < 0x1400) ∨ (0x2000 ≤ a.toNat ∧ a.toNat < 0x2600)) :
    (locate a).droppedWhileBusy := by
  rcases h with rfl | hw | hpt
  · exact .inl locate_cmdAddr
  · exact .inr (.inl (locate_w hw))
  · exact .inr (.inr (locate_pt hpt))

theorem State.writeAt_droppedWhileBusy (s : State) {l : Loc} (v : Word) (hb : s.status.busy = true)
    (hl : l.droppedWhileBusy) : s.writeAt l v = s.conflict := by
  rcases hl with rfl | ⟨i, j, rfl⟩ | ⟨i, c, j, rfl⟩ <;> exact if_pos hb

/-- Settles O9: the bus takes the access, and the location drops the write. -/
theorem writesWhileBusyAreDropped : Obligations.WritesWhileBusyAreDropped := by
  unfold Obligations.WritesWhileBusyAreDropped
  intro s a v hb hok ha
  rw [s.busWrite_taken v hok, s.writeAt_droppedWhileBusy v hb (locate_droppedWhileBusy ha)]
  rfl

/-! ## Errors (60_exceptions.md R251, R254) -/

/-- A completion sets ERR only as a failure. -/
theorem State.eq_error_of_finish_err {s : State} {r : Except CmdError Writes} (hs : s.status.err = false)
    (h : (s.finish r).status.err = true) : ∃ e, r = .error e := by
  cases r with
  | error e => exact ⟨e, rfl⟩
  | ok wr =>
    have hkept : (s.complete wr).status.err = s.status.err := (s.complete_completedOk wr).err
    exact absurd (hkept.symm.trans h) (by simp [hs])

/-- A completion sets ERRCODE only as the failure with that error. -/
theorem State.eq_error_of_finish_errcode {s : State} {r : Except CmdError Writes} {e : CmdError}
    (hs : s.status.errcode = none) (h : (s.finish r).status.errcode = some e) : r = .error e := by
  cases r with
  | error e' => exact congrArg Except.error (Option.some.inj h)
  | ok wr =>
    have hkept : (s.complete wr).status.errcode = s.status.errcode := (s.complete_completedOk wr).errcode
    exact absurd (hkept.symm.trans h) (by simp [hs])

/-- Settles O13: only `State.fail` sets ERR, and it changes nothing but STATUS. -/
theorem errorsArePrecise : Obligations.ErrorsArePrecise := by
  unfold Obligations.ErrorsArePrecise
  intro i s t herr h herr'
  obtain ⟨r, hr, -⟩ := exec_finishes i s
  cases hr.symm.trans h
  obtain ⟨e, rfl⟩ := State.eq_error_of_finish_err herr herr'
  exact ⟨e, s.fail_completedErr e, rfl, s.fail_unchangedExcept e⟩

/-- Settles O14: ERRCODE is the error the command ended with, and the command's shape names those it can raise. -/
theorem errorsAreThoseOfTheTable : Obligations.ErrorsAreThoseOfTheTable := by
  unfold Obligations.ErrorsAreThoseOfTheTable
  intro i s t e hi hnone h hcode
  obtain ⟨r, hr, hshape⟩ := exec_finishes i s
  cases hr.symm.trans h
  exact hshape.error hi e (State.eq_error_of_finish_errcode hnone hcode)

end Sys2Proof.Machine
end

section
/-! Proofs about the resets and the hazards (70_reset_and_hazards.md): the state after a reset, what counts as a
recorded fault, what the host's writes of a whole register leave unchanged, and that a command completes alike however
long it takes. -/

namespace Sys2Proof.Machine

/-! ## Reset (R280, R283) -/

/-- No limb counts as written, so no W register is initialised. -/
theorem State.wMarked_eq_false {s : State} (h : s.wLimbs = Vector.replicate 16 0) (i : WReg) : s.wMarked i = false := by
  simp [State.wMarked, h]

theorem State.ptMarked_eq_false {s : State} (h : s.ptLimbs = Vector.replicate 8 0) (i : PReg) :
    s.ptMarked i = false := by
  simp [State.ptMarked, h]

/-- Settles O19: the reset state is idle, and its STATUS and FLAGS are 0. -/
theorem invariantAtReset : Obligations.InvariantAtReset := by
  unfold Obligations.InvariantAtReset
  exact .of_idle Status.zero_consistent Flags.zero_atMostOne rfl

/-- Settles O22: the reset state holds zero STATUS, FLAGS and CMD, and no limb counts as written. -/
theorem stateAfterReset : Obligations.StateAfterReset := by
  unfold Obligations.StateAfterReset
  exact ⟨Status.word_zero, Flags.word_zero, rfl, rfl, State.wMarked_eq_false rfl, State.ptMarked_eq_false rfl, rfl⟩

/-- Settles O23: the event is `State.hardReset`, and ID and the ROM are no fields of the state. -/
theorem hardResetEffect : Obligations.HardResetEffect := by
  unfold Obligations.HardResetEffect
  intro s es hs
  refine ⟨_, step_of_cons hs, Status.word_zero, Flags.word_zero, rfl, State.wMarked_eq_false rfl,
    State.ptMarked_eq_false rfl, rfl, fun r j => ?_, rfl⟩
  rw [State.stored_romAddr, State.stored_romAddr]

/-! ## Recorded faults (R282, R295, R296) -/

/-- A word reads an uninitialised register exactly when it decodes to a command with such a source. -/
theorem State.readsUninitialised_iff (s : State) (c : Word) :
    s.readsUninitialised c = true ↔ ∃ i r, decode c = .ok i ∧ r ∈ sources i s ∧ s.marked r = false := by
  unfold State.readsUninitialised
  cases hc : decode c with
  | error e => simp
  | ok i => simp [State.sourcesMarked]

/-- No write clears a recorded fault, and only an acceptance records an uninitialised source. -/
theorem State.busWrite_faults (s : State) (a : Addr) (width : Nat) (v : Word) :
    (s.busFault = true → (s.busWrite a width v).busFault = true) ∧
    ((s.busWrite a width v).uninitFault = s.uninitFault ∨
      s.status.busy = false ∧ a = cmdAddr ∧ width = 32 ∧
        (s.busWrite a width v).uninitFault = (s.uninitFault || s.readsUninitialised v)) := by
  rcases s.busWrite_cases a width v with h | ⟨hw, u, hu, h⟩
  · rw [h]; exact ⟨fun _ => rfl, .inl rfl⟩
  · rw [h]
    generalize hl : locate a = l at hu
    cases hu with
    | accepted hb => exact ⟨id, .inr ⟨hb, eq_cmdAddr_of_locate hl, hw, rfl⟩⟩
    | readOnly | noReset | dropped | cleared | softReset | pokedW | pokedPT => exact ⟨id, .inl rfl⟩

/-- No step clears a recorded fault, and only a step that accepts a command records an uninitialised source. -/
theorem step_faults {s t : State} (h : step s = .next t) :
    (s.busFault = true → t.busFault = true) ∧
    (t.uninitFault = s.uninitFault ∨
      s.status.busy = false ∧ ∃ v es, s.schedule = .write cmdAddr 32 v :: es ∧
        t.uninitFault = (s.uninitFault || s.readsUninitialised v)) := by
  cases stepKind_of_step h with
  | turn hs ht =>
    rcases coreTurn_next (s.withSchedule s.schedule.tail) with ⟨-, hidle⟩ | ⟨-, r, hr⟩
    · cases hidle.symm.trans ht
      exact ⟨id, .inl rfl⟩
    · cases hr.symm.trans ht
      obtain ⟨-, -, huninit, hbus⟩ := State.finish_status (s.withSchedule s.schedule.tail) r
      exact ⟨hbus.trans, .inl huninit⟩
  | hardReset hs => exact ⟨id, .inl rfl⟩
  | @read a width es hs =>
    obtain ⟨_, _, _, hread, hbus⟩ := (s.withSchedule es).busRead_frame a width
    rw [hread]
    exact ⟨hbus, .inl rfl⟩
  | @write a width v es hs =>
    obtain ⟨hbus, hkept | ⟨hb, rfl, rfl, hrec⟩⟩ := (s.withSchedule es).busWrite_faults a width v
    · exact ⟨hbus, .inl hkept⟩
    · exact ⟨hbus, .inr ⟨hb, v, es, hs, hrec⟩⟩

/-- The block has just accepted the word `v` from the host, and the events `es` are still to come. -/
def State.accepted (s : State) (v : Word) (es : List Event) : State :=
  { (s.withSchedule es).accept v with response := .written cmdAddr }

/-- The step of a CMD write to an idle block is its acceptance (60_exceptions.md R255). -/
theorem step_accept {s : State} {v : Word} {es : List Event} (hb : s.status.busy = false)
    (hs : s.schedule = .write cmdAddr 32 v :: es) : step s = .next (s.accepted v es) :=
  (step_of_cons hs).trans (congrArg Host.Outcome.next ((s.withSchedule es).busWrite_cmd_idle v hb))

theorem State.accepted_uninitFault (s : State) (v : Word) (es : List Event) :
    (s.accepted v es).uninitFault = (s.uninitFault || s.readsUninitialised v) := rfl

/-- Settles O21: the record is the disjunction `State.accept` makes, and no other event touches it. -/
theorem uninitialisedSourceIsRecordedForGood : Obligations.UninitialisedSourceIsRecordedForGood := by
  unfold Obligations.UninitialisedSourceIsRecordedForGood
  refine ⟨fun s v es hb hs => ?_, fun s t h => ?_⟩
  · refine ⟨_, step_accept hb hs, fun i r hi hr hm => ?_, fun ⟨e, he⟩ => ?_, fun i hi hm => ?_⟩
    · rw [s.accepted_uninitFault, (s.readsUninitialised_iff v).2 ⟨i, r, hi, hr, hm⟩, Bool.or_true]
    · have hnone : s.readsUninitialised v = false := by simp [State.readsUninitialised, he]
      rw [s.accepted_uninitFault, hnone, Bool.or_false]
    · have hnone : s.readsUninitialised v = false := by
        simpa [State.readsUninitialised, hi, State.sourcesMarked] using hm
      rw [s.accepted_uninitFault, hnone, Bool.or_false]
  · obtain ⟨hbus, hkept | ⟨hb, v, es, hs, hrec⟩⟩ := step_faults h
    · exact ⟨hkept.trans, hbus, fun hf ht => by simp [hkept, hf] at ht⟩
    · refine ⟨fun hf => by simp [hrec, hf], hbus, fun hf ht => ⟨hb, v, es, ?_⟩⟩
      rw [hrec, hf, Bool.false_or, s.readsUninitialised_iff] at ht
      obtain ⟨i, r, hi, hr, hm⟩ := ht
      exact ⟨i, r, hs, hi, hr, hm⟩

/-! ## What the host's writes of a register leave unchanged (R282, 20_memory.md R52) -/

/-- Nothing of the block differs between the two states but the named registers, their marks and the faults. -/
structure LimbWritesOnly (s t : State) (wd : Option WReg) (pd : Option PReg) : Prop where
  w : ∀ k : WReg, wd ≠ some k → t.w[k] = s.w[k]
  wLimbs : ∀ k : WReg, wd ≠ some k → t.wLimbs[k] = s.wLimbs[k]
  pt : ∀ k : PReg, pd ≠ some k → t.pt[k] = s.pt[k]
  ptLimbs : ∀ k : PReg, pd ≠ some k → t.ptLimbs[k] = s.ptLimbs[k]
  flags : t.flags = s.flags
  status : t.status = s.status
  cmd : t.cmd = s.cmd

namespace LimbWritesOnly

variable {s t u : State} {wd : Option WReg} {pd : Option PReg}

theorem refl (s : State) (wd : Option WReg) (pd : Option PReg) : LimbWritesOnly s s wd pd :=
  ⟨fun _ _ => rfl, fun _ _ => rfl, fun _ _ => rfl, fun _ _ => rfl, rfl, rfl, rfl⟩

theorem trans (h : LimbWritesOnly s t wd pd) (h' : LimbWritesOnly t u wd pd) : LimbWritesOnly s u wd pd where
  w k hk := (h'.w k hk).trans (h.w k hk)
  wLimbs k hk := (h'.wLimbs k hk).trans (h.wLimbs k hk)
  pt k hk := (h'.pt k hk).trans (h.pt k hk)
  ptLimbs k hk := (h'.ptLimbs k hk).trans (h.ptLimbs k hk)
  flags := h'.flags.trans h.flags
  status := h'.status.trans h.status
  cmd := h'.cmd.trans h.cmd

theorem w_eq (h : LimbWritesOnly s t none pd) : t.w = s.w ∧ t.wLimbs = s.wLimbs :=
  ⟨Vector.ext fun n hn => h.w ⟨n, hn⟩ nofun, Vector.ext fun n hn => h.wLimbs ⟨n, hn⟩ nofun⟩

theorem pt_eq (h : LimbWritesOnly s t wd none) : t.pt = s.pt ∧ t.ptLimbs = s.ptLimbs :=
  ⟨Vector.ext fun n hn => h.pt ⟨n, hn⟩ nofun, Vector.ext fun n hn => h.ptLimbs ⟨n, hn⟩ nofun⟩

theorem wMarked (h : LimbWritesOnly s t wd pd) {k : WReg} (hk : wd ≠ some k) : t.wMarked k = s.wMarked k := by
  rw [State.wMarked, h.wLimbs k hk, State.wMarked]

theorem ptMarked (h : LimbWritesOnly s t wd pd) {k : PReg} (hk : pd ≠ some k) : t.ptMarked k = s.ptMarked k := by
  rw [State.ptMarked, h.ptLimbs k hk, State.ptMarked]

/-- The 16 writes change what each of them may change. -/
theorem of_writeLimbs {addr : Fin 16 → Addr} {v : Value} (hb : s.status.busy = false)
    (hwrite : ∀ (t : State) j, t.status.busy = false →
      LimbWritesOnly t (t.busWrite (addr j) 32 (limb v j)) wd pd) :
    LimbWritesOnly s (writeLimbs addr v s) wd pd :=
  (writeLimbs_holds (inv := (LimbWritesOnly s · wd pd)) (held := fun _ _ => True)
    (fun t j ht => ⟨ht.trans (hwrite t j (ht.status ▸ hb)), fun _ _ => trivial⟩) (.refl s wd pd)).1

end LimbWritesOnly

section HostWrites

variable {s : State} (hb : s.status.busy = false)
include hb

theorem State.busWrite_wAddr_limbWritesOnly (i : WReg) (j : Fin 16) (v : Word) :
    LimbWritesOnly s (s.busWrite (wAddr i j) 32 v) (some i) none := by
  have hother : ∀ k, some i ≠ some k →
      (s.pokeW i j v).w[k] = s.w[k] ∧ (s.pokeW i j v).wLimbs[k] = s.wLimbs[k] :=
    fun k hk => s.pokeW_other (fun h => hk (congrArg some h.symm)) j v
  rw [s.busWrite_w v hb]
  exact ⟨fun k hk => (hother k hk).1, fun k hk => (hother k hk).2, fun _ _ => rfl, fun _ _ => rfl, rfl, rfl, rfl⟩

theorem State.busWrite_ptAddr_limbWritesOnly (i : PReg) (c : Fin 3) (j : Fin 16) (v : Word) :
    LimbWritesOnly s (s.busWrite (ptAddr i c j) 32 v) none (some i) := by
  have hother : ∀ k, some i ≠ some k →
      (s.pokePT i c j v).pt[k] = s.pt[k] ∧ (s.pokePT i c j v).ptLimbs[k] = s.ptLimbs[k] :=
    fun k hk => s.pokePT_other (fun h => hk (congrArg some h.symm)) c j v
  rw [s.busWrite_pt v hb]
  exact ⟨fun _ _ => rfl, fun _ _ => rfl, fun k hk => (hother k hk).1, fun k hk => (hother k hk).2, rfl, rfl, rfl⟩

theorem hostWriteW_limbWritesOnly (i : WReg) (v : Value) : LimbWritesOnly s (hostWriteW i v s) (some i) none :=
  .of_writeLimbs hb fun _ j ht => State.busWrite_wAddr_limbWritesOnly ht i j _

theorem hostWritePT_limbWritesOnly (i : PReg) (p : Point) : LimbWritesOnly s (hostWritePT i p s) none (some i) := by
  have hcoord : ∀ (t : State) (c : Fin 3) (v : Value), t.status.busy = false →
      LimbWritesOnly t (writeLimbs (ptAddr i c) v t) none (some i) :=
    fun t c v ht => .of_writeLimbs ht fun _ j hu => State.busWrite_ptAddr_limbWritesOnly hu i c j _
  have hx := hcoord s 0 p.x hb
  have hxy := hx.trans (hcoord _ 1 p.y (hx.status ▸ hb))
  exact hxy.trans (hcoord _ 2 p.z (hxy.status ▸ hb))

end HostWrites

/-- Settles O28: the limb writes hold the value and its mark, and touch nothing outside their register. -/
theorem fullHostWriteInitialises : Obligations.FullHostWriteInitialises := by
  unfold Obligations.FullHostWriteInitialises
  intro s hb
  refine ⟨fun i v => ?_, fun i p => ?_⟩
  · obtain ⟨hw, hm, hst⟩ := hostWriteW_holds hb i v
    have hframe := hostWriteW_limbWritesOnly hb i v
    obtain ⟨hpt, hptl⟩ := hframe.pt_eq
    refine ⟨hw, hm, fun k hk => ?_, hpt, hptl, hframe.flags, hst, hframe.cmd⟩
    have hne : some i ≠ some k := fun h => hk (Option.some.inj h).symm
    exact ⟨hframe.w k hne, hframe.wMarked hne⟩
  · obtain ⟨hpt, hm, hst⟩ := hostWritePT_holds hb i p
    have hframe := hostWritePT_limbWritesOnly hb i p
    obtain ⟨hw, hwl⟩ := hframe.w_eq
    refine ⟨hpt, hm, fun k hk => ?_, hw, hwl, hframe.flags, hst, hframe.cmd⟩
    have hne : some i ≠ some k := fun h => hk (Option.some.inj h).symm
    exact ⟨hframe.pt k hne, hframe.ptMarked hne⟩

/-! ## Completion, however late (R300) -/

/-- Settles O7: `exec` always ends in `State.finish`. -/
theorem everyCommandCompletes : Obligations.EveryCommandCompletes := by
  unfold Obligations.EveryCommandCompletes
  intro i s
  obtain ⟨r, hr, -⟩ := exec_finishes i s
  obtain ⟨hbusy, hdone, -, -⟩ := s.finish_status r
  exact ⟨_, hr, hbusy, hdone⟩

/-- STATUS of a command from its acceptance to its completion (60_exceptions.md R255): whatever the host writes to
STATUS meanwhile has nothing to clear. -/
structure Status.Running (st : Status) : Prop where
  busy : st.busy = true
  err : st.err = false
  errcode : st.errcode = none

theorem Status.accepted_running (st : Status) : st.accepted.Running := ⟨rfl, rfl, rfl⟩

/-- Two states agree on everything of the block but BUSY, DONE, CONFLICT and the recorded faults. -/
structure SameBlock (s t : State) : Prop where
  w : t.w = s.w
  pt : t.pt = s.pt
  flags : t.flags = s.flags
  cmd : t.cmd = s.cmd
  wLimbs : t.wLimbs = s.wLimbs
  ptLimbs : t.ptLimbs = s.ptLimbs
  err : t.status.err = s.status.err
  errcode : t.status.errcode = s.status.errcode

theorem SameBlock.refl (s : State) : SameBlock s s := ⟨rfl, rfl, rfl, rfl, rfl, rfl, rfl, rfl⟩

theorem SameBlock.trans {s t u : State} (h : SameBlock s t) (h' : SameBlock t u) : SameBlock s u where
  w := h'.w.trans h.w
  pt := h'.pt.trans h.pt
  flags := h'.flags.trans h.flags
  cmd := h'.cmd.trans h.cmd
  wLimbs := h'.wLimbs.trans h.wLimbs
  ptLimbs := h'.ptLimbs.trans h.ptLimbs
  err := h'.err.trans h.err
  errcode := h'.errcode.trans h.errcode

/-- What a block accepts does not depend on the events still to come. -/
theorem State.accepted_sameBlock (s : State) (v : Word) (es es' : List Event) :
    SameBlock (s.accepted v es) (s.accepted v es') := ⟨rfl, rfl, rfl, rfl, rfl, rfl, rfl, rfl⟩

theorem SameBlock.putW {s t : State} (h : SameBlock s t) (i : WReg) (v : Value) : SameBlock (s.putW i v) (t.putW i v) :=
  { h with w := by simp [h.w], wLimbs := by simp [h.wLimbs] }

theorem SameBlock.putPT {s t : State} (h : SameBlock s t) (i : PReg) (p : Point) :
    SameBlock (s.putPT i p) (t.putPT i p) :=
  { h with pt := by simp [h.pt], ptLimbs := by simp [h.ptLimbs] }

/-- The same writes keep two states the same: first those of W, then those of PT, then those of FLAGS. -/
theorem SameBlock.perform {s t : State} (h : SameBlock s t) (wr : Writes) :
    SameBlock (s.perform wr) (t.perform wr) := by
  obtain ⟨w, pt, flags⟩ := wr
  have hw : SameBlock (s.perform ⟨w, none, none⟩) (t.perform ⟨w, none, none⟩) :=
    match w with
    | none => h
    | some (i, v) => h.putW i v
  have hpt : SameBlock (s.perform ⟨w, pt, none⟩) (t.perform ⟨w, pt, none⟩) :=
    match pt with
    | none => hw
    | some (i, p) => hw.putPT i p
  exact match flags with
    | none => hpt
    | some _ => { hpt with flags := rfl }

/-- The same completion keeps two states the same. -/
theorem SameBlock.finish {s t : State} (h : SameBlock s t) (r : Except CmdError Writes) :
    SameBlock (s.finish r) (t.finish r) := by
  cases r with
  | error e => exact { h with err := rfl, errcode := rfl }
  | ok wr => exact { h.perform wr with err := h.err, errcode := h.errcode }

/-- A write other than to CTRL leaves a running command running (20_memory.md R59). -/
theorem WriteEffect.running {s u : State} {v : Word} {l : Loc} (hu : WriteEffect s v l u) (hl : l ≠ .ctrl)
    (h : s.status.Running) : u.status.Running ∧ u.schedule = s.schedule := by
  cases hu with
  | readOnly => exact ⟨h, rfl⟩
  | dropped => exact ⟨⟨h.busy, h.err, h.errcode⟩, rfl⟩
  | cleared => exact ⟨⟨h.busy, by simp [Status.clearedBy, h.err], by simp [Status.clearedBy, h.errcode]⟩, rfl⟩
  | noReset | softReset => exact absurd rfl hl
  | accepted hb | pokedW _ _ hb | pokedPT _ _ _ hb => simp [h.busy] at hb

/-- A host access other than a CTRL write leaves a running command running, and the block as it is. -/
theorem step_running {s : State} {e : Event} {es : List Event} (hs : s.schedule = e :: es)
    (he : e.keepsRunning = true) (h : s.status.Running) :
    ∃ t, step s = .next t ∧ SameBlock s t ∧ t.status.Running ∧ t.schedule = es := by
  obtain ⟨t, ht, hrun, hes⟩ : ∃ t, step s = .next t ∧ t.status.Running ∧ t.schedule = es := by
    rw [step_of_cons hs]
    cases e with
    | read a width =>
      obtain ⟨_, _, _, hread, -⟩ := (s.withSchedule es).busRead_frame a width
      exact ⟨_, congrArg Host.Outcome.next hread, h, rfl⟩
    | write a width v =>
      refine ⟨_, rfl, ?_⟩
      rcases (s.withSchedule es).busWrite_cases a width v with hw | ⟨-, u, hu, hw⟩
      · rw [hw]; exact ⟨h, rfl⟩
      · rw [hw]; exact hu.running (by simpa [Event.keepsRunning] using he) h
    | hardReset | coreTurn => cases he
  obtain ⟨hw, hpt, hflags, hcmd, hwl, hptl⟩ := runningCommandKeepsItsOperands s t h.busy ht hrun.busy
  exact ⟨t, ht, ⟨hw, hpt, hflags, hcmd, hwl, hptl, hrun.err.trans h.err.symm, hrun.errcode.trans h.errcode.symm⟩,
    hrun, hes⟩

theorem run_succ_of_step {s t : State} (n : Nat) (h : step s = .next t) :
    Host.Core.run core (n + 1) s = Host.Core.run core n t := by
  simp only [Host.Core.run, show core.step s = .next t from h]

/-- A run that begins with a CMD write to an idle block goes on from the acceptance. -/
theorem run_accepted {s : State} {v : Word} {es : List Event} (n : Nat) (hb : s.status.busy = false) :
    Host.Core.run core (n + 1) (s.withSchedule (.write cmdAddr 32 v :: es)) = Host.Core.run core n (s.accepted v es) :=
  run_succ_of_step n (step_accept (s := s.withSchedule (.write cmdAddr 32 v :: es)) hb rfl)

/-- However many such accesses come first, the command still runs after them on the same block. -/
theorem run_running {es : List Event} {s : State} (n : Nat) (hs : s.schedule = es)
    (hes : ∀ e ∈ es, e.keepsRunning = true) (h : s.status.Running) :
    ∃ t : State, Host.Core.run core (es.length + n) s = Host.Core.run core n t ∧ SameBlock s t ∧
      t.status.Running ∧ t.schedule = [] := by
  induction es generalizing s with
  | nil => exact ⟨s, by rw [List.length_nil, Nat.zero_add], .refl s, h, hs⟩
  | cons e es ih =>
    obtain ⟨he, hes⟩ := List.forall_mem_cons.1 hes
    obtain ⟨t, ht, hsame, hrun, hts⟩ := step_running hs he h
    obtain ⟨u, hu, hsame', hrun', hus⟩ := ih hts hes hrun
    refine ⟨u, ?_, hsame.trans hsame', hrun', hus⟩
    rw [List.length_cons, Nat.add_right_comm, run_succ_of_step _ ht, hu]

/-- With no event to come, one step runs the command in CMD (log 5). -/
theorem run_one_of_exec {s t : State} {i : Instr} (hs : s.schedule = []) (hb : s.status.busy = true)
    (hi : decode s.cmd = .ok i) (ht : exec i s = .next t) : Host.Core.run core 1 s = .next t :=
  run_succ_of_step 0 (((step_of_nil hs).trans (coreTurn_of_decode_ok hb hi)).trans ht)

/-- A command with initialised sources ends in the same completion on the same block (R293). -/
theorem SameBlock.exec_finishes {s t : State} {i : Instr} (h : SameBlock s t) (hm : s.sourcesMarked i = true) :
    ∃ r, exec i s = .next (s.finish r) ∧ exec i t = .next (t.finish r) := by
  have hm' : t.sourcesMarked i = true := State.sourcesMarked_congr h.w h.wLimbs h.ptLimbs hm
  obtain ⟨r, hr, hr', -⟩ := exec_finishes_alike i s t
    (.of_marked hm hm' (fun _ _ => by rw [h.w]) (fun _ _ => by rw [h.pt]))
  exact ⟨r, hr, hr'⟩

/-- Settles O12: the accesses before the core's turn keep the block the command was accepted on, so both runs end in the
same completion. -/
theorem latencyDoesNotChangeTheResult : Obligations.LatencyDoesNotChangeTheResult := by
  unfold Obligations.LatencyDoesNotChangeTheResult
  intro s v i es hb hi hm hes
  obtain ⟨u, hu, hsame, hrun, hnil⟩ := run_running (s := s.accepted v es) 1 rfl hes s.status.accepted_running
  have hblock : SameBlock (s.accepted v []) u := (s.accepted_sameBlock v [] es).trans hsame
  have hm' : (s.accepted v []).sourcesMarked i = true := State.sourcesMarked_congr (s := s) rfl rfl rfl hm
  obtain ⟨r, hr, hr'⟩ := hblock.exec_finishes hm'
  have hnow : Host.Core.run core 2 (s.withSchedule [.write cmdAddr 32 v]) = .next ((s.accepted v []).finish r) :=
    (run_accepted 1 hb).trans (run_one_of_exec rfl rfl hi hr)
  have hlate : Host.Core.run core (es.length + 2) (s.withSchedule (.write cmdAddr 32 v :: es)) = .next (u.finish r) :=
    (run_accepted (es.length + 1) hb).trans (hu.trans (run_one_of_exec hnil hrun.busy (hblock.cmd ▸ hi) hr'))
  have hend := hblock.finish r
  exact ⟨_, _, hnow, hlate, hend.w, hend.pt, hend.flags, hend.cmd, hend.wLimbs, hend.ptLimbs, (u.finish_status r).1,
    (State.finish_status _ r).1, hend.err, hend.errcode⟩

end Sys2Proof.Machine
end
